-- ==== Sys2Proof/Word.lean ====
section
/-! DEFINITION. The word types of the JRB (00_scope.md R8): 32-bit words, 16-bit halves, bytes. -/

namespace Sys2Proof

/-- A register, an operand, a result, an address: 32 bits (R8). -/
abbrev Word := BitVec 32

/-- Two bytes: an RGB565 pixel, a line number, an accumulator. -/
abbrev Half := BitVec 16

/-- One byte of platform memory. -/
abbrev Byte := BitVec 8

end Sys2Proof
end

