-- ==== Sys2Proof/Syntax.lean ====
section
/-! DEFINITION. The names of the JRB's interface: its twelve commands (30_encoding.md R103), its
registers (10_state.md R22), the access widths, the lines of the host access notation (30_encoding.md
R110, R111) and the turns of the agents (44_register_access.md R257). -/

namespace Sys2Proof

/-- The twelve commands, one per row of opcode_table.json. A command word holds no operand (R101), so
no constructor has an argument. -/
inductive Instr where
  | nop | cossin | qexp | isqrt | rot2d | packyz | lutidx | lutfetch | lutsample | march | framepre | pixel
  deriving DecidableEq, Repr, Inhabited

/-- The registers of the window, in the order of R22. -/
inductive Reg where
  | id | param | ctrl | status | irqEn | cmd
  | opa | opb | opc | opd
  | res0 | res1 | accR | accG | accB
  | lutBase | fbBase | fbStride | fbSize | voff | marchN | shifts | faultColor
  | rotStep | rotPeriod | transStep | transPeriod | rotFrame | transFrame
  | camX | camY | camZ | u0 | v0 | pixStep | focal | dirshift
  | frameCos | frameSin | frameZoff
  | curPos | latePos | frameCount | lateCount
  deriving DecidableEq, Repr, Inhabited

/-- The widths of a bus access, in bytes 1, 2 and 4 (R62, R71, R250). -/
inductive Width where
  | byte | half | word
  deriving DecidableEq, Repr, Inhabited

/-- The two kinds of a master-port access, as `bus_ok` sees them (R11, R77). -/
inductive AccessKind where
  | read | write
  deriving DecidableEq, Repr, Inhabited

/-- One line of a host program (R110, R111). -/
inductive HostLine where
  /-- `WR reg, value` -/
  | wr (r : Reg) (value : Word)
  /-- `RD reg` -/
  | rd (r : Reg)
  /-- `CMD m` -/
  | cmd (i : Instr)
  /-- `POLL` -/
  | poll
  /-- `WAITF bit` -/
  | waitf (bit : Nat)
  /-- `CLR bits` -/
  | clr (bits : List Nat)
  /-- `CALL m a[, b[, c[, d]]]` -/
  | call (i : Instr) (operands : List Word)
  deriving DecidableEq, Repr

/-- One bus operation of an expanded host program, at an offset from BLOCK_BASE (R110, R112);
`waitBit` is the repeated `RD STATUS` of POLL and WAITF (R111). -/
inductive HostPrim where
  | write (offset : Word) (value : Word)
  | read (offset : Word)
  | waitBit (bit : Nat) (value : Bool)
  deriving DecidableEq, Repr

/-- One turn: the agent that steps next and, for the environment, what it does (R6, R257, R205, R262).
Log 1 says how turns make the interleaving of R257. -/
inductive Turn where
  /-- HOST does the next bus operation of its program. -/
  | hostProgram
  /-- HOST writes `data` at a platform address: a register access inside the window, a memory access outside. -/
  | hostWrite (addr : Word) (w : Width) (data : Word)
  /-- HOST reads at a platform address. -/
  | hostRead (addr : Word) (w : Width)
  /-- HOST makes its memory writes visible at the master port (the duty of R82). -/
  | hostPublish
  /-- CMD executes the accepted command (R256). -/
  | cmd
  /-- SFC takes one of the steps of R224. -/
  | sfc
  /-- DISPLAY raises LINE by 1 (R205). -/
  | lineUp
  /-- DISPLAY emits TICK (R205, R206). -/
  | tick
  /-- DISPLAY reads the framebuffer, without effect (R205). -/
  | scanOut
  /-- The platform asserts reset (R300). -/
  | reset
  deriving DecidableEq, Repr, Inhabited

end Sys2Proof
end

