-- ==== Sys2Proof/WellFormed.lean ====
section
/-! DEFINITION. Which terms of the syntax the spec allows. A command has no operand field, so every
constructor of `Instr` is well formed (30_encoding.md R101); the checks stand on the lines of the host
access notation (R110, R111). -/

namespace Sys2Proof

/-- R101: a command word holds no register number and no immediate, so nothing can be out of range. -/
def Instr.wellFormed : Instr → Bool
  | .nop | .cossin | .qexp | .isqrt | .rot2d | .packyz => true
  | .lutidx | .lutfetch | .lutsample | .march | .framepre | .pixel => true

/-- The W1C bits of STATUS (R27), which `CLR` may name (R111). -/
def HostLine.clearable (bit : Nat) : Bool := [1, 2, 3, 10, 11, 12, 15].contains bit

/-- The one-bit flags of STATUS (R27), which `WAITF` may name (R111). -/
def HostLine.waitable (bit : Nat) : Bool := [0, 1, 2, 3, 10, 11, 12, 15].contains bit

/-- R111: WAITF names a STATUS bit, CLR names W1C bits, CALL gives one to four operands. -/
def HostLine.wellFormed : HostLine → Bool
  | .wr _ _ => true
  | .rd _ => true
  | .cmd i => i.wellFormed
  | .poll => true
  | .waitf bit => HostLine.waitable bit
  | .clr bits => !bits.isEmpty && bits.all HostLine.clearable
  | .call i operands => i.wellFormed && decide (1 ≤ operands.length) && decide (operands.length ≤ 4)

end Sys2Proof
end

