-- ==== Sys2Proof/Decode.lean ====
section
/-! DEFINITION. The command decoder (30_encoding.md R100, R103 to R106), total on every word, its
encoder, and the offsets of the register window (10_state.md R22). -/

namespace Sys2Proof

/-- Why a word is no command (R104), or why bytes are no word. -/
inductive DecodeError where
  /-- Some bit of RSVD [31:8] is 1 (R104). -/
  | reservedBits
  /-- OPCODE is in 0x0C to 0xFF (R104). -/
  | reservedOpcode
  /-- Fewer than the four bytes of a command word (R106). -/
  | truncated
  deriving DecidableEq, Repr

/-- The opcode map of R103. -/
def decodeOpcode (op : BitVec 8) : Option Instr :=
  match op.toNat with
  | 0x00 => some .nop
  | 0x01 => some .cossin
  | 0x02 => some .qexp
  | 0x03 => some .isqrt
  | 0x04 => some .rot2d
  | 0x05 => some .packyz
  | 0x06 => some .lutidx
  | 0x07 => some .lutfetch
  | 0x08 => some .lutsample
  | 0x09 => some .march
  | 0x0A => some .framepre
  | 0x0B => some .pixel
  | _ => none

/-- R100, R104, R105: OPCODE is bits [7:0] and RSVD, bits [31:8], must be zero. -/
def decode (w : Word) : Except DecodeError Instr :=
  if w.extractLsb' 8 24 ≠ 0#24 then .error .reservedBits
  else
    match decodeOpcode (w.extractLsb' 0 8) with
    | some i => .ok i
    | none => .error .reservedOpcode

/-- A command word from its four bytes, the least significant at the lowest address, and the bytes that
follow it. PRESUMED (log 28): a CMD word is one 32-bit register write, whose bytes no rule orders. -/
def decodeBytes : List Byte → Except DecodeError (Instr × List Byte)
  | b0 :: b1 :: b2 :: b3 :: rest =>
    match decode (b3 ++ b2 ++ b1 ++ b0) with
    | .ok i => .ok (i, rest)
    | .error e => .error e
  | _ => .error .truncated

/-- The opcode of each command (R103). -/
def opcode : Instr → BitVec 8
  | .nop => 0x00#8
  | .cossin => 0x01#8
  | .qexp => 0x02#8
  | .isqrt => 0x03#8
  | .rot2d => 0x04#8
  | .packyz => 0x05#8
  | .lutidx => 0x06#8
  | .lutfetch => 0x07#8
  | .lutsample => 0x08#8
  | .march => 0x09#8
  | .framepre => 0x0A#8
  | .pixel => 0x0B#8

/-- The command word of a command: RSVD zero above OPCODE (R100). -/
def encode (i : Instr) : Word := 0#24 ++ opcode i

/-- The four bytes of a word, the least significant first (log 28). -/
def wordBytes (w : Word) : List Byte :=
  [w.extractLsb' 0 8, w.extractLsb' 8 8, w.extractLsb' 16 8, w.extractLsb' 24 8]

/-- What the decoder reads from an opcode-table word of `nbits` bits (bit 0 the least significant of
the first byte): its bytes in that order, given to `decodeBytes` (log 28). Bits above the row's are 0. -/
def decodeTableWord (nbits w : Nat) : Option Instr :=
  if w < 2 ^ nbits ∧ w < 2 ^ 32 then
    match decodeBytes (wordBytes (BitVec.ofNat 32 w)) with
    | .ok (i, _) => some i
    | .error _ => none
  else none

/-- The offset of a register from BLOCK_BASE (R22). -/
def Reg.offset : Reg → Word
  | .id => 0x000 | .param => 0x004 | .ctrl => 0x008 | .status => 0x00C | .irqEn => 0x010 | .cmd => 0x014
  | .opa => 0x018 | .opb => 0x01C | .opc => 0x020 | .opd => 0x024
  | .res0 => 0x028 | .res1 => 0x02C | .accR => 0x030 | .accG => 0x034 | .accB => 0x038
  | .lutBase => 0x040 | .fbBase => 0x044 | .fbStride => 0x048 | .fbSize => 0x04C | .voff => 0x050
  | .marchN => 0x054 | .shifts => 0x058 | .faultColor => 0x05C
  | .rotStep => 0x060 | .rotPeriod => 0x064 | .transStep => 0x068 | .transPeriod => 0x06C
  | .rotFrame => 0x070 | .transFrame => 0x074
  | .camX => 0x078 | .camY => 0x07C | .camZ => 0x080
  | .u0 => 0x084 | .v0 => 0x088 | .pixStep => 0x08C | .focal => 0x090 | .dirshift => 0x094
  | .frameCos => 0x098 | .frameSin => 0x09C | .frameZoff => 0x0A0
  | .curPos => 0x0A4 | .latePos => 0x0A8 | .frameCount => 0x0AC | .lateCount => 0x0B0

/-- The register at an offset; none at the reserved offsets 0x03C and 0x0B4 to 0x0FC (R22, R57) and
at an offset that is no multiple of 4. -/
def Reg.ofOffset (off : Word) : Option Reg :=
  match off.toNat with
  | 0x000 => some .id | 0x004 => some .param | 0x008 => some .ctrl | 0x00C => some .status
  | 0x010 => some .irqEn | 0x014 => some .cmd
  | 0x018 => some .opa | 0x01C => some .opb | 0x020 => some .opc | 0x024 => some .opd
  | 0x028 => some .res0 | 0x02C => some .res1 | 0x030 => some .accR | 0x034 => some .accG | 0x038 => some .accB
  | 0x040 => some .lutBase | 0x044 => some .fbBase | 0x048 => some .fbStride | 0x04C => some .fbSize
  | 0x050 => some .voff | 0x054 => some .marchN | 0x058 => some .shifts | 0x05C => some .faultColor
  | 0x060 => some .rotStep | 0x064 => some .rotPeriod | 0x068 => some .transStep | 0x06C => some .transPeriod
  | 0x070 => some .rotFrame | 0x074 => some .transFrame
  | 0x078 => some .camX | 0x07C => some .camY | 0x080 => some .camZ
  | 0x084 => some .u0 | 0x088 => some .v0 | 0x08C => some .pixStep | 0x090 => some .focal | 0x094 => some .dirshift
  | 0x098 => some .frameCos | 0x09C => some .frameSin | 0x0A0 => some .frameZoff
  | 0x0A4 => some .curPos | 0x0A8 => some .latePos | 0x0AC => some .frameCount | 0x0B0 => some .lateCount
  | _ => none

end Sys2Proof
end

