-- ==== Sys2Proof/Config.lean ====
section
/-! DEFINITION. The implementation parameters (00_scope.md R7, R11) and the free values of
93_implementation_defined.md. Q, BLOCK_BASE and bus_ok are plain data that every state carries in its
`build` field, so that a statement about every state holds for every build (log 3); MEM0 and the free
values are constants without a body. -/

namespace Sys2Proof

/-- The legal values of the build parameter Q (R7). -/
inductive QFormat where
  | q10 | q11 | q12 | q13
  deriving DecidableEq, Repr, Inhabited

/-- A set of master-port accesses the platform answers with an error (R77): those of this width and
kind at an address from `lo` to `hi`. -/
structure Denied where
  lo : Nat
  hi : Nat
  width : Width
  kind : AccessKind
  deriving DecidableEq, Repr

/-- The parameters of one build on one platform (R7, R11): Q, BLOCK_BASE, and `bus_ok` as the list of
what it refuses (log 4). No step changes them. BLOCK_BASE is any word (log 29). -/
structure Build where
  q : QFormat
  blockBase : Word
  denied : List Denied
  deriving DecidableEq, Repr

/-- `MEM0`: what each byte of platform memory holds before anything wrote it (R11, R63, U7). Fixed and
unknown (log 5). -/
opaque Config.mem0 : Nat → BitVec 8

/-- Free choices, one for each draw: which value a raced or unpublished byte reads as (U1, U2) and
whether a byte of a failed write lands (U3) (log 6, log 8, log 21). -/
opaque Config.freeChoice : Nat → Nat

/-- Whose turn comes when no turn is listed (U14, U15), one for each draw (log 1). -/
opaque Config.freeTurn : Nat → Turn

end Sys2Proof
end

