-- ==== Sys2Proof/Machine/State.lean ====
section
/-! DEFINITION. The state of the JRB and its surroundings (10_state.md R20 to R63), as plain data, and
the state after power-on reset (70_reset_and_hazards.md R300, R301). Registers hold their defined bits
only; reserved bits have no storage (log 13). -/

namespace Sys2Proof.Machine

/-- Why a step could stop. The spec gives the JRB no stop: every error is recorded in STATUS and the
machine goes on (R256, R270 to R277), so no constructor stands here. -/
inductive Fault where
  deriving DecidableEq, Repr

/-- Why an instruction has no meaning. -/
inductive Refusal where
  /-- Raised by `exec` for an instruction without a meaning yet (safe). No arm of `exec` raises it. -/
  | notModelled (mnemonic : String)
  deriving DecidableEq, Repr

/-- CTRL.PIXFMT (R26): 0 is RGB565, 1 is L8. -/
inductive PixFmt where
  | rgb565 | l8
  deriving DecidableEq, Repr, Inhabited

/-- CTRL (R26). -/
structure Ctrl where
  en : Bool
  checker : Bool
  mirror : Bool
  pixfmt : PixFmt
  deriving DecidableEq, Repr

/-- The seven W1C flags of STATUS (R27), and, in IRQ_EN, their enables (R35). -/
structure Flags where
  cmdovr : Bool
  ovf : Bool
  cmddone : Bool
  done : Bool
  late : Bool
  sfcerr : Bool
  fstart : Bool
  deriving DecidableEq, Repr

/-- STATUS.ERR (R32, R270). -/
inductive ErrCode where
  | ok | illegal | domain | conflict | buserr
  deriving DecidableEq, Repr

/-- STATUS.SFC_CAUSE (R34, R276); `none` since reset. -/
inductive SfcCause where
  | none | domain | config | buserr
  deriving DecidableEq, Repr

/-- The frame controller's phase (R33). -/
inductive Phase where
  | off | wait | pre | active
  deriving DecidableEq, Repr

/-- The configuration registers 0x040 to 0x094 (R39 to R52), each with its defined bits; `lutBase` is
bits [31:2] of LUT_BASE. -/
structure Cfg where
  lutBase : BitVec 30
  fbBase : Word
  fbStride : Half
  fbW : Half
  fbH : Half
  voff : Half
  marchN : Byte
  shifts : Half
  faultColor : Half
  rotStep : Word
  rotPeriod : Half
  transStep : Word
  transPeriod : Half
  rotFrame : Half
  transFrame : Half
  camX : Word
  camY : Word
  camZ : Word
  u0 : Word
  v0 : Word
  pixStep : Word
  focal : Word
  dirshift : BitVec 5
  deriving DecidableEq, Repr

/-- The command engine latch (R58): the accepted command, op.A to op.D, and copies of the registers a
command may read (log 10). -/
structure Latch where
  cmd : Instr
  a : Word
  b : Word
  c : Word
  d : Word
  pixfmt : PixFmt
  cfg : Cfg
  frameCos : Word
  frameSin : Word
  frameZoff : Word
  deriving DecidableEq, Repr

/-- The frame snapshot (R59). -/
structure Snap where
  checker : Bool
  mirror : Bool
  pixfmt : PixFmt
  cfg : Cfg
  deriving DecidableEq, Repr

/-- What the SFC is doing in the active phase (R59, R214, R220): rendering row y; reconstructing row
y − 1 while row y is the current row; copying mirrored row y; painting late row y, faulted at column
x0; or done with every row. -/
inductive SubPhase where
  | render
  | recon
  | mirror
  | paint (x0 : Nat)
  | finish
  deriving DecidableEq, Repr

/-- The SFC cursor (R59): sub-phase, current row, and the column its next step works on. -/
structure Cursor where
  sub : SubPhase
  y : Nat
  x : Nat
  deriving DecidableEq, Repr

/-- The frame controller's internal state (R59). -/
structure Sfc where
  phase : Phase
  lateLatch : Bool
  snap : Snap
  fcos : Word
  fsin : Word
  zoff : Word
  cursor : Cursor
  deriving DecidableEq, Repr

/-- The register port's and the host memory port's answer to the last host access (R62, R250, R251;
log 17). -/
inductive PortResponse where
  | idle
  | data (v : Word)
  | done
  | error
  deriving DecidableEq, Repr

/-- Written bytes of platform memory, by address. An unlisted address has no written byte; a read of
it gives MEM0's (log 5). -/
abbrev Memory := List Host.Cell

/-- The whole system: the registers of R22, the command engine, the frame controller, its inputs,
platform memory, and the model's own fields for what the environment does next. -/
structure State where
  build : Build
  ctrl : Ctrl
  flags : Flags
  err : ErrCode
  cause : SfcCause
  irqEn : Flags
  opa : Word
  opb : Word
  opc : Word
  opd : Word
  res0 : Word
  res1 : Word
  accR : Half
  accG : Half
  accB : Half
  cfg : Cfg
  frameCos : Word
  frameSin : Word
  frameZoff : Word
  curPos : Word
  latePos : Word
  frameCount : Word
  lateCount : Word
  latch : Option Latch
  sfc : Sfc
  line : Half
  mem : Memory
  pending : List Host.Cell
  port : PortResponse
  program : List HostPrim
  sched : List Turn
  draws : Nat
  deriving DecidableEq, Repr

/-- No flag set, no flag enabled. -/
def Flags.none : Flags := ⟨false, false, false, false, false, false, false⟩

/-- The reset values of the configuration registers (R22, R44 to R46, R301). -/
def Cfg.reset : Cfg where
  lutBase := 0#30
  fbBase := 0#32
  fbStride := 0#16
  fbW := 0#16
  fbH := 0#16
  voff := 0#16
  marchN := 16#8
  shifts := 0x6767#16
  faultColor := 0xF81F#16
  rotStep := 0#32
  rotPeriod := 0#16
  transStep := 0#32
  transPeriod := 0#16
  rotFrame := 0#16
  transFrame := 0#16
  camX := 0#32
  camY := 0#32
  camZ := 0#32
  u0 := 0#32
  v0 := 0#32
  pixStep := 0#32
  focal := 0#32
  dirshift := 0#5

/-- The frame controller after reset: OFF, late_latch 0 (R300). The snapshot, the constants and the
cursor are unspecified and unread before the next PRE (R59, U11); log 15 names the values here. -/
def Sfc.reset : Sfc where
  phase := .off
  lateLatch := false
  snap := ⟨false, false, .rgb565, Cfg.reset⟩
  fcos := 0#32
  fsin := 0#32
  zoff := 0#32
  cursor := ⟨.render, 0, 0⟩

/-- The reset state of a build (R300, R301), with the surroundings as at power-on: memory unwritten,
LINE at 0 (log 16), nothing pending and nothing planned (log 17 to log 19, log 21). -/
def State.resetOf (b : Build) : State where
  build := b
  ctrl := ⟨false, false, false, .rgb565⟩
  flags := Flags.none
  err := .ok
  cause := .none
  irqEn := Flags.none
  opa := 0#32
  opb := 0#32
  opc := 0#32
  opd := 0#32
  res0 := 0#32
  res1 := 0#32
  accR := 0#16
  accG := 0#16
  accB := 0#16
  cfg := Cfg.reset
  frameCos := 0#32
  frameSin := 0#32
  frameZoff := 0#32
  curPos := 0#32
  latePos := 0#32
  frameCount := 0#32
  lateCount := 0#32
  latch := none
  sfc := Sfc.reset
  line := 0#16
  mem := []
  pending := []
  port := .idle
  program := []
  sched := []
  draws := 0

/-- The canonical build, Q = 12 (R7), at BLOCK_BASE 0x50000000 with every access answered (log 3). -/
def Build.canonical : Build := ⟨.q12, 0x50000000#32, []⟩

/-- The machine right after power-on reset. -/
def State.reset : State := State.resetOf Build.canonical

end Sys2Proof.Machine
end

