-- ==== Sys2Proof/Machine/Operands.lean ====
section
/-! DEFINITION. Number formats and operand forms: Q and ONE (00_scope.md R7), the arithmetic notation of
R13, the operand forms of 30_encoding.md R102, the fields of a table entry (41_lut_indexer.md R160) and
of the configuration registers (10_state.md R39 to R52). -/

namespace Sys2Proof

/-- Q, the number of fraction bits (R7). -/
def QFormat.frac : QFormat → Nat
  | .q10 => 10
  | .q11 => 11
  | .q12 => 12
  | .q13 => 13

/-- `ONE = 2^Q` (R7). -/
def QFormat.one (q : QFormat) : Nat := 2 ^ q.frac

/-- How many bytes an access has (R71, R250). -/
def Width.bytes : Width → Nat
  | .byte => 1
  | .half => 2
  | .word => 4

end Sys2Proof

namespace Sys2Proof.Machine

/-- `trunc32(v)` and `u32(v)`: the low 32 bits of an integer (R13). -/
def trunc32 (v : Int) : Word := BitVec.ofInt 32 v

/-- `asr(v, s) = floor(v / 2^s)` (R13). -/
def asr (v : Int) (s : Nat) : Int := v / (2 ^ s : Nat)

/-- Operand form `i32`: the signed value (R102). -/
def i32 (v : Word) : Int := v.toInt

/-- Operand form `idx`: the unsigned value (R102). -/
def idx (v : Word) : Nat := v.toNat

/-- Operand form `xy`, the column: bits [15:0] (R102). -/
def xyX (v : Word) : Nat := (v.extractLsb' 0 16).toNat

/-- Operand form `xy`, the row: bits [31:16] (R102). -/
def xyY (v : Word) : Nat := (v.extractLsb' 16 16).toNat

/-- A position as CUR_POS and LATE_POS hold it: `(y << 16) | x` (R54, R55). -/
def posWord (y x : Nat) : Word := BitVec.ofNat 16 y ++ BitVec.ofNat 16 x

/-- The fields D, R, G and B of a table entry (R160). -/
def entryD (e : Word) : Nat := (e.extractLsb' 24 8).toNat
def entryR (e : Word) : Nat := (e.extractLsb' 16 8).toNat
def entryG (e : Word) : Nat := (e.extractLsb' 8 8).toNat
def entryB (e : Word) : Nat := (e.extractLsb' 0 8).toNat

/-- LUT_BASE as a byte address: bits [1:0] are hardwired 0 (R39). -/
def Cfg.lutAddr (c : Cfg) : Word := c.lutBase ++ 0#2

/-- The shift amounts of SHIFTS (R45). -/
def Cfg.shr (c : Cfg) : Nat := (c.shifts.extractLsb' 0 4).toNat
def Cfg.shg (c : Cfg) : Nat := (c.shifts.extractLsb' 4 4).toNat
def Cfg.shb (c : Cfg) : Nat := (c.shifts.extractLsb' 8 4).toNat
def Cfg.shl (c : Cfg) : Nat := (c.shifts.extractLsb' 12 4).toNat

/-- BPP as an access width: 2 bytes for RGB565, 1 for L8 (R26, R80). -/
def PixFmt.width : PixFmt → Width
  | .rgb565 => .half
  | .l8 => .byte

end Sys2Proof.Machine
end

