-- ==== Sys2Proof/Machine/Flags.lean ====
section
/-! DEFINITION. Every flag computation: the overflow check `chk` (40_fixed_point_math.md R131), the word
forms of CTRL, STATUS and IRQ_EN (10_state.md R26, R27, R35), the W1C write (44_register_access.md R253)
and the interrupt output (60_exceptions.md R274). -/

namespace Sys2Proof.Machine

/-- `in_i32(v)` (R13). -/
def inI32 (v : Int) : Bool := decide (-2147483648 ≤ v) && decide (v ≤ 2147483647)

/-- Whether `chk` of some value in the list reports an overflow (R131). -/
def chkAny (vs : List Int) : Bool := vs.any fun v => !inI32 v

/-- A word with bit `k` equal to `b` and every other bit 0. -/
def bitAt (b : Bool) (k : Nat) : Word := if b then 1#32 <<< k else 0#32

/-- A field value placed at bit `k`. -/
def fieldAt (v : Nat) (k : Nat) : Word := BitVec.ofNat 32 v <<< k

def PixFmt.code : PixFmt → Bool
  | .rgb565 => false
  | .l8 => true

def PixFmt.ofCode (b : Bool) : PixFmt := if b then .l8 else .rgb565

/-- CTRL as read (R26); bits [31:4] read 0. -/
def Ctrl.toWord (c : Ctrl) : Word :=
  bitAt c.en 0 ||| bitAt c.checker 1 ||| bitAt c.mirror 2 ||| bitAt c.pixfmt.code 3

/-- CTRL as written (R26); bits [31:4] are ignored. -/
def Ctrl.ofWord (v : Word) : Ctrl :=
  ⟨v.getLsbD 0, v.getLsbD 1, v.getLsbD 2, PixFmt.ofCode (v.getLsbD 3)⟩

/-- The seven flags at their STATUS positions (R27, R35). -/
def Flags.toWord (f : Flags) : Word :=
  bitAt f.cmdovr 1 ||| bitAt f.ovf 2 ||| bitAt f.cmddone 3 ||| bitAt f.done 10 ||| bitAt f.late 11
    ||| bitAt f.sfcerr 12 ||| bitAt f.fstart 15

/-- The bits of a word at the seven flag positions; every other bit is ignored (R35). -/
def Flags.ofWord (v : Word) : Flags :=
  ⟨v.getLsbD 1, v.getLsbD 2, v.getLsbD 3, v.getLsbD 10, v.getLsbD 11, v.getLsbD 12, v.getLsbD 15⟩

/-- R253: each flag whose bit in `w` is 1 is cleared, the others are left. -/
def Flags.clear (f w : Flags) : Flags :=
  ⟨f.cmdovr && !w.cmdovr, f.ovf && !w.ovf, f.cmddone && !w.cmddone, f.done && !w.done,
    f.late && !w.late, f.sfcerr && !w.sfcerr, f.fstart && !w.fstart⟩

/-- Some flag is both set and enabled. -/
def Flags.meets (f e : Flags) : Bool :=
  (f.cmdovr && e.cmdovr) || (f.ovf && e.ovf) || (f.cmddone && e.cmddone) || (f.done && e.done)
    || (f.late && e.late) || (f.sfcerr && e.sfcerr) || (f.fstart && e.fstart)

/-- The codes of R32 and R270. -/
def ErrCode.code : ErrCode → Nat
  | .ok => 0
  | .illegal => 1
  | .domain => 2
  | .conflict => 3
  | .buserr => 4

/-- The causes of R34 and R276. -/
def SfcCause.code : SfcCause → Nat
  | .none => 0
  | .domain => 1
  | .config => 2
  | .buserr => 3

/-- The codes of R33. -/
def Phase.code : Phase → Nat
  | .off => 0
  | .wait => 1
  | .pre => 2
  | .active => 3

/-- STATUS.BUSY: a command is accepted and not complete (R28, R58). -/
def State.busy (s : State) : Bool := s.latch.isSome

/-- STATUS as read (R27); bits [31:16] read 0. -/
def State.statusWord (s : State) : Word :=
  bitAt s.busy 0 ||| s.flags.toWord ||| fieldAt s.err.code 4 ||| fieldAt s.sfc.phase.code 8
    ||| fieldAt s.cause.code 13

/-- The IRQ output, combinational from STATUS and IRQ_EN (R274). -/
def State.irq (s : State) : Bool := s.flags.meets s.irqEn

end Sys2Proof.Machine
end

