-- ==== Sys2Proof/Machine/Ops.lean ====
section
/-! DEFINITION. The shared operations: platform memory and the master port (20_memory.md R70 to R85),
acceptance and completion of a command (44_register_access.md R254, R256), and the two error entries,
CmdError (60_exceptions.md R271) and SfcFault (R276). The JRB has no trap entry and no return (R277):
these record an error and the machine goes on; the host's W1C write stands in for the return
(Machine/RegisterPort.lean). -/

namespace Sys2Proof.Machine

/-! ### Memory as a list of written bytes -/

/-- The byte written at an address, if any was. -/
def Memory.get : Memory → Nat → Option Byte
  | [], _ => none
  | (k, b) :: m, a => if a = k then some b else Memory.get m a

/-- Write one byte, keeping the addresses rising. -/
def Memory.set : Memory → Nat → Byte → Memory
  | [], a, v => [(a, v)]
  | (k, b) :: m, a, v =>
    if a < k then (a, v) :: (k, b) :: m
    else if a = k then (a, v) :: m
    else (k, b) :: Memory.set m a v

/-- Every address of `m` is above `lo` and inside the 32-bit space (R70), and they rise strictly. -/
def Memory.wfAbove : Nat → Memory → Bool
  | _, [] => true
  | lo, (k, _) :: m => decide (lo ≤ k) && decide (k < 2 ^ 32) && Memory.wfAbove (k + 1) m

/-- The canonical form of a memory: addresses strictly rising, all inside the 32-bit space. An unlisted
address has no written byte, so no entry repeats what an unlisted address holds (log 5). -/
def Memory.wf (m : Memory) : Bool := Memory.wfAbove 0 m

/-- Store the low `n` bytes of a word, the least significant at the lowest address (R72), addresses
modulo 2^32 (R78). -/
def Memory.store (m : Memory) : Nat → Word → Word → Memory
  | 0, _, _ => m
  | n + 1, a, v => Memory.store (Memory.set m a.toNat (v.extractLsb' 0 8)) n (a + 1#32) (v >>> 8)

/-! ### The master port -/

/-- The platform's verdict on a master-port access (R11, R77). -/
def Build.busOk (b : Build) (a : Word) (w : Width) (k : AccessKind) : Bool :=
  !(b.denied.any fun d =>
    decide (d.lo ≤ a.toNat) && decide (a.toNat ≤ d.hi) && decide (d.width = w) && decide (d.kind = k))

/-- The byte at an address as the master port sees memory: the one written last, else MEM0's (R63). -/
def State.visibleByte (s : State) (a : Word) : Byte :=
  (Memory.get s.mem a.toNat).getD (Config.mem0 a.toNat)

/-- The values the host wrote at an address and has not made visible, oldest first (R82). -/
def State.pendingAt (s : State) (a : Word) : List Byte :=
  s.pending.filterMap fun c => if c.1 = a.toNat then some c.2 else none

/-- One byte of a JRB read. Where the host has writes pending, the byte is its visible value or any
later one, drawn freely (R82, R84, U1, U2; log 6); `n` counts the draws. -/
def State.readByte (s : State) (n : Nat) (a : Word) : Byte × Nat :=
  match s.pendingAt a with
  | [] => (s.visibleByte a, n)
  | c :: cs =>
    ((s.visibleByte a :: c :: cs).getD (Config.freeChoice n % (cs.length + 2)) (s.visibleByte a), n + 1)

/-- `MemRead(a, k)` as a number (R72). -/
def State.readBytes (s : State) : Nat → Nat → Word → Nat × Nat
  | 0, n, _ => (0, n)
  | k + 1, n, a =>
    let b := s.readByte n a
    let r := s.readBytes k b.2 (a + 1#32)
    (b.1.toNat + 256 * r.1, r.2)

/-- One master-port read: no data on an error response (R77). -/
def State.busRead (s : State) (n : Nat) (a : Word) (w : Width) : Option Word × Nat :=
  if Build.busOk s.build a w .read then
    let r := s.readBytes w.bytes n a
    (some (BitVec.ofNat 32 r.1), r.2)
  else (none, n)

/-- The bytes of a write that got an error response: each keeps its value or takes the written one,
drawn freely (U3; log 8). -/
def Memory.storeSome (m : Memory) : Nat → Nat → Word → Word → Memory
  | 0, _, _, _ => m
  | k + 1, n, a, v =>
    Memory.storeSome
      (if Config.freeChoice n % 2 = 0 then m else Memory.set m a.toNat (v.extractLsb' 0 8))
      k (n + 1) (a + 1#32) (v >>> 8)

/-- One master-port write of the low bytes of `v`, and whether it was answered without error (R77). -/
def State.busWrite (s : State) (a : Word) (w : Width) (v : Word) : State × Bool :=
  if Build.busOk s.build a w .write then
    ({ s with mem := Memory.store s.mem w.bytes a v }, true)
  else
    ({ s with mem := Memory.storeSome s.mem w.bytes s.draws a v, draws := s.draws + w.bytes }, false)

/-! ### The command engine -/

/-- The latch a command takes at acceptance (R58, R254). -/
def Latch.capture (i : Instr) (s : State) : Latch where
  cmd := i
  a := s.opa
  b := s.opb
  c := s.opc
  d := s.opd
  pixfmt := s.ctrl.pixfmt
  cfg := s.cfg
  frameCos := s.frameCos
  frameSin := s.frameSin
  frameZoff := s.frameZoff

/-- What command `i` computes from: the latch; with an empty latch, what acceptance would capture now
(log 9). -/
def State.running (s : State) (i : Instr) : Latch := s.latch.getD (Latch.capture i s)

/-- Acceptance of a command: the latch is filled, which is BUSY (R254). -/
def State.accept (s : State) (i : Instr) : State := { s with latch := some (Latch.capture i s) }

/-- A CMD write that is rejected: the code, CMDDONE, and nothing else (R254). -/
def State.reject (s : State) (e : ErrCode) : State :=
  { s with err := e, flags := { s.flags with cmddone := true } }

/-- What a command delivers (R109): the result registers it writes. -/
structure Results where
  res0 : Option Word := none
  res1 : Option Word := none
  acc : Option (Half × Half × Half) := none
  frame : Option (Word × Word × Word) := none
  deriving DecidableEq, Repr

/-- Write the result registers that are given; the others keep their values (R38, R109). -/
def State.deliver (s : State) (r : Results) : State :=
  { s with
    res0 := r.res0.getD s.res0
    res1 := r.res1.getD s.res1
    accR := (r.acc.map (·.1)).getD s.accR
    accG := (r.acc.map (·.2.1)).getD s.accG
    accB := (r.acc.map (·.2.2)).getD s.accB
    frameCos := (r.frame.map (·.1)).getD s.frameCos
    frameSin := (r.frame.map (·.2.1)).getD s.frameSin
    frameZoff := (r.frame.map (·.2.2)).getD s.frameZoff }

/-- The end of every command step (R256): ERR, CMDDONE, BUSY cleared with the latch, and OVF sticky. -/
def State.close (s : State) (e : ErrCode) (ovf : Bool) (draws : Nat) : State :=
  { s with
    err := e
    flags := { s.flags with ovf := s.flags.ovf || ovf, cmddone := true }
    latch := none
    draws := draws }

/-- `raise CmdError(e)` (R271): the command ends and writes no result; an OVF already reported stays (R256). -/
def State.raiseCmdError (s : State) (e : ErrCode) (ovf : Bool) (draws : Nat) : State := s.close e ovf draws

/-- Completion of a command (R256): its results, or its error. -/
def State.finishCommand (s : State) (draws : Nat) (ovf : Bool) : Except ErrCode Results → State
  | .error e => s.raiseCmdError e ovf draws
  | .ok r => (s.close .ok ovf draws).deliver r

/-! ### The frame controller's fault -/

/-- `raise SfcFault(cause)` (R276): SFCERR and the cause, EN cleared, OFF, late_latch cleared; nothing else. -/
def State.raiseSfcFault (s : State) (c : SfcCause) : State :=
  { s with
    flags := { s.flags with sfcerr := true }
    cause := c
    ctrl := { s.ctrl with en := false }
    sfc := { s.sfc with phase := .off, lateLatch := false } }

/-- OVF set by a `chk` outside a command (R30, R131); sticky. -/
def State.noteOvf (s : State) (ovf : Bool) : State :=
  { s with flags := { s.flags with ovf := s.flags.ovf || ovf } }

end Sys2Proof.Machine
end

