-- ==== Sys2Proof/Machine/Engine.lean ====
section
/-! DEFINITION. The command engine's own rules (44_register_access.md): the NOP command (R255) and
what a write to CMD does (R254). -/

namespace Sys2Proof.Machine

/-- `NOP` (R255): it completes like every command and writes no result. -/
def execNop (s : State) : Host.Outcome State Fault Refusal := .next (s.finishCommand s.draws false (.ok {}))

/-- A write of word `w` to CMD (R254): dropped when busy, CONFLICT in PRE and ACTIVE, ILLEGAL for a word
that is no command, else accepted, in that order (R278). -/
def State.submit (s : State) (w : Word) : State :=
  if s.busy then { s with flags := { s.flags with cmdovr := true } }
  else
    match s.sfc.phase with
    | .pre => s.reject .conflict
    | .active => s.reject .conflict
    | .off | .wait =>
      match decode w with
      | .error _ => s.reject .illegal
      | .ok i => s.accept i

end Sys2Proof.Machine
end

