-- ==== Sys2Proof/Machine/Fxm.lean ====
section
/-! DEFINITION. FXM, the fixed-point math unit (40_fixed_point_math.md): COSSIN, QEXP, ISQRT, ROT2D. -/

namespace Sys2Proof.Machine

/-! ### COSSIN -/

/-- `cos_sin(theta)` (R133): cosine and sine, or nothing when theta is outside the four quadrants. -/
def cossin (q : QFormat) (theta : Int) : Option (Word × Word) :=
  if theta < 0 ∨ 4 * (q.one : Int) ≤ theta then none
  else
    let th := theta.toNat
    let u := th % q.one
    let w := q.one - u
    let c0 : Int := (q.one : Int) - ((u * u / q.one : Nat) : Int)
    let s0 : Int := (q.one : Int) - ((w * w / q.one : Nat) : Int)
    match th / q.one with
    | 0 => some (trunc32 c0, trunc32 s0)
    | 1 => some (trunc32 (-s0), trunc32 c0)
    | 2 => some (trunc32 (-c0), trunc32 (-s0))
    | _ => some (trunc32 s0, trunc32 (-c0))

/-- `COSSIN` (R133). -/
def execCossin (s : State) : Host.Outcome State Fault Refusal :=
  .next <| s.finishCommand s.draws false <|
    match cossin s.build.q (i32 (s.running .cossin).a) with
    | none => .error .domain
    | some cs => .ok { res0 := some cs.1, res1 := some cs.2 }

/-! ### QEXP -/

/-- `LN2`, the nearest integer to ln 2 · 2^Q (R135). -/
def qexpLn2 : QFormat → Nat
  | .q10 => 710
  | .q11 => 1420
  | .q12 => 2839
  | .q13 => 5678

/-- `L[1..Q]`, the nearest integers to ln(1 + 2^−k) · 2^Q (R135). -/
def qexpLadder : QFormat → List Nat
  | .q10 => [415, 228, 121, 62, 32, 16, 8, 4, 2, 1]
  | .q11 => [830, 457, 241, 124, 63, 32, 16, 8, 4, 2, 1]
  | .q12 => [1661, 914, 482, 248, 126, 64, 32, 16, 8, 4, 2, 1]
  | .q13 => [3322, 1828, 965, 497, 252, 127, 64, 32, 16, 8, 4, 2, 1]

/-- `MAX`, the maximum representable value (R135). -/
def qexpMax : Nat := 2147483647

/-- The integer ladder of R136: one doubling per ln 2, nothing when a doubling would pass MAX. The
first number bounds the passes; `r` itself is always enough, since each pass lowers it. -/
def qexpDouble (ln2 : Nat) : Nat → Nat → Nat → Option (Nat × Nat)
  | 0, r, y => some (r, y)
  | n + 1, r, y =>
    if ln2 ≤ r then
      if 2 ^ 30 ≤ y then none else qexpDouble ln2 n (r - ln2) (2 * y)
    else some (r, y)

/-- The fraction ladder of R136 from step `k` on: threshold subtractions and saturating additions. -/
def qexpFraction : List Nat → Nat → Nat → Nat → Option Nat
  | [], _, _, y => some y
  | l :: ls, k, r, y =>
    if l ≤ r then
      if qexpMax < y + y / 2 ^ k then none else qexpFraction ls (k + 1) (r - l) (y + y / 2 ^ k)
    else qexpFraction ls (k + 1) r y

/-- `qexp(x)` for x ≥ 0 (R136). -/
def qexp (q : QFormat) (x : Nat) : Nat :=
  match qexpDouble (qexpLn2 q) x x q.one with
  | none => qexpMax
  | some (r, y) => (qexpFraction (qexpLadder q) 1 r y).getD qexpMax

/-- `QEXP` (R136). -/
def execQexp (s : State) : Host.Outcome State Fault Refusal :=
  .next <| s.finishCommand s.draws false <|
    let x := i32 (s.running .qexp).a
    if x < 0 then .error .domain else .ok { res0 := some (BitVec.ofNat 32 (qexp s.build.q x.toNat)) }

/-! ### ISQRT -/

/-- The average-and-check loop of R138. The first number bounds the passes; `n` is enough, since the
estimate falls at each (R139). -/
def isqrtLoop (n : Nat) : Nat → Nat → Nat → Nat
  | 0, x, _ => x
  | k + 1, x, y => if y < x then isqrtLoop n k y ((y + n / y) / 2) else x

/-- `isqrt(n)` for n ≥ 0 (R138). -/
def isqrt (n : Nat) : Nat := if n = 0 then 0 else isqrtLoop n n n ((n + 1) / 2)

/-- `ISQRT` (R138). -/
def execIsqrt (s : State) : Host.Outcome State Fault Refusal :=
  .next <| s.finishCommand s.draws false <|
    let n := i32 (s.running .isqrt).a
    if n < 0 then .error .domain else .ok { res0 := some (BitVec.ofNat 32 (isqrt n.toNat)) }

/-! ### ROT2D -/

/-- `rotate_2d(x, y, cos, sin)` (R140): x', y', and whether one of the six checks reports an overflow. -/
def rot2d (q : QFormat) (x y c s : Int) : Word × Word × Bool :=
  let a := c * x + s * y
  let b := c * y - s * x
  (trunc32 (asr a q.frac), trunc32 (asr b q.frac), chkAny [c * x, s * y, c * y, s * x, a, b])

/-- `ROT2D` (R140). -/
def execRot2d (s : State) : Host.Outcome State Fault Refusal :=
  let l := s.running .rot2d
  let r := rot2d s.build.q (i32 l.a) (i32 l.b) (i32 l.c) (i32 l.d)
  .next (s.finishCommand s.draws r.2.2 (.ok { res0 := some r.1, res1 := some r.2.1 }))

end Sys2Proof.Machine
end

