-- ==== Sys2Proof/Machine/Vlx.lean ====
section
/-! DEFINITION. VLX, the volumetric LUT indexer and fetcher (41_lut_indexer.md): PACKYZ, LUTIDX,
LUTFETCH, LUTSAMPLE. -/

namespace Sys2Proof.Machine

/-- The packed YZ word `u32(y·2^16 + z)` (R162, R163). -/
def packYZ (y z : Int) : Word := trunc32 (y * 65536 + z)

/-- `PACKYZ` (R163). -/
def execPackyz (s : State) : Host.Outcome State Fault Refusal :=
  let l := s.running .packyz
  .next (s.finishCommand s.draws false (.ok { res0 := some (packYZ (i32 l.a) (i32 l.b)) }))

/-- ONE as a word. -/
def oneWord (q : QFormat) : Word := BitVec.ofNat 32 q.one

/-- The table index of a position (R165): fold, cells of x, y and z, and the packed index. -/
def lutIdx (q : QFormat) (x yz : Word) : Word :=
  let ix := ((x + oneWord q) >>> (q.frac - 6)) &&& 0x7F#32
  let iy := ((yz + (oneWord q <<< 16)) >>> (q.frac + 10)) &&& 0x7F#32
  let iz := (((yz + oneWord q) &&& 0xFFFF#32) >>> (q.frac - 6)) &&& 0x7F#32
  (ix <<< 14) ||| (iy <<< 7) ||| iz

/-- `LUTIDX` (R165). -/
def execLutidx (s : State) : Host.Outcome State Fault Refusal :=
  let l := s.running .lutidx
  .next (s.finishCommand s.draws false (.ok { res0 := some (lutIdx s.build.q l.a l.b) }))

/-- The byte address of a table entry, `u32(LUT_BASE + 4·idx)` (R166, R78). -/
def entryAddr (c : Cfg) (i : Word) : Word := c.lutAddr + 4#32 * i

/-- A table fetch through the master port (R71, R166, R77). -/
def State.fetchEntry (s : State) (c : Cfg) (n : Nat) (i : Word) : Option Word × Nat :=
  s.busRead n (entryAddr c i) .word

/-- `LUTFETCH` (R167): DOMAIN is checked before the access (R278). -/
def execLutfetch (s : State) : Host.Outcome State Fault Refusal :=
  let l := s.running .lutfetch
  .next <|
    if 2 ^ 21 ≤ idx l.a then s.finishCommand s.draws false (.error .domain)
    else
      let r := s.fetchEntry l.cfg s.draws l.a
      s.finishCommand r.2 false <|
        match r.1 with
        | none => .error .buserr
        | some e => .ok { res0 := some e }

/-- `LUTSAMPLE` (R168). -/
def execLutsample (s : State) : Host.Outcome State Fault Refusal :=
  let l := s.running .lutsample
  let i := lutIdx s.build.q l.a l.b
  let r := s.fetchEntry l.cfg s.draws i
  .next <| s.finishCommand r.2 false <|
    match r.1 with
    | none => .error .buserr
    | some e => .ok { res0 := some e, res1 := some i }

end Sys2Proof.Machine
end

