-- ==== Sys2Proof/Machine/Rmu.lean ====
section
/-! DEFINITION. RMU, the per-pixel raymarcher (42_raymarcher.md): the raymarch loop, the final
reduction, MARCH. -/

namespace Sys2Proof.Machine

/-- A ray: start position and direction, each an X word and a YZ word (R162, R184). -/
structure Ray where
  x : Word
  yz : Word
  dx : Word
  dyz : Word
  deriving DecidableEq, Repr

/-- What the loop ends with: the three accumulators, the fetch count and the hit bit (R180, R186). -/
structure MarchOut where
  ar : Nat
  ag : Nat
  ab : Nat
  fetches : Nat
  hit : Bool
  deriving DecidableEq, Repr

/-- The raymarch loop of R184, `rem` iterations left (R180, R181): nothing on an error response; the
second component counts the free values drawn. -/
def marchLoop (s : State) (c : Cfg) (dx dyz : Word) :
    Nat → Word → Word → MarchOut → Nat → Option MarchOut × Nat
  | 0, _, _, o, n => (some o, n)
  | rem + 1, x, yz, o, n =>
    let r := s.fetchEntry c n (lutIdx s.build.q x yz)
    match r.1 with
    | none => (none, r.2)
    | some e =>
      if entryD e = 0 then
        (some ⟨o.ar + entryR e * (rem + 1), o.ag + entryG e * (rem + 1), o.ab + entryB e * (rem + 1),
            o.fetches + 1, true⟩, r.2)
      else
        marchLoop s c dx dyz rem
          (x + dx * BitVec.ofNat 32 (entryD e)) (yz + dyz * BitVec.ofNat 32 (entryD e))
          ⟨o.ar + entryR e, o.ag + entryG e, o.ab + entryB e, o.fetches + 1, false⟩ r.2

/-- One ray through the loop, from fresh accumulators with `rem = N` (R180, R184). -/
def march (s : State) (c : Cfg) (ray : Ray) (n : Nat) : Option MarchOut × Nat :=
  marchLoop s c ray.dx ray.dyz c.marchN.toNat ray.x ray.yz ⟨0, 0, 0, 0, false⟩ n

/-- `REDUCE(ar, ag, ab)` (R185). -/
def reduce (c : Cfg) (f : PixFmt) (ar ag ab : Nat) : Word :=
  match f with
  | .rgb565 =>
    fieldAt ((ar >>> c.shr) % 32) 11 ||| fieldAt ((ag >>> c.shg) % 64) 5 ||| fieldAt ((ab >>> c.shb) % 32) 0
  | .l8 => fieldAt (((ar + ag + ab) >>> c.shl) % 256) 0

/-- The pixel of a finished ray. -/
def MarchOut.pixel (o : MarchOut) (c : Cfg) (f : PixFmt) : Word := reduce c f o.ar o.ag o.ab

/-- The info word (R186). -/
def MarchOut.info (o : MarchOut) : Word := bitAt o.hit 8 ||| BitVec.ofNat 32 o.fetches

/-- The results of MARCH and PIXEL (R109, R184). -/
def marchResult (c : Cfg) (f : PixFmt) : Option MarchOut → Except ErrCode Results
  | none => .error .buserr
  | some o =>
    .ok { res0 := some (o.pixel c f), res1 := some o.info,
          acc := some (BitVec.ofNat 16 o.ar, BitVec.ofNat 16 o.ag, BitVec.ofNat 16 o.ab) }

/-- `MARCH` (R184). -/
def execMarch (s : State) : Host.Outcome State Fault Refusal :=
  let l := s.running .march
  let r := march s l.cfg ⟨l.a, l.b, l.c, l.d⟩ s.draws
  .next (s.finishCommand r.2 false (marchResult l.cfg l.pixfmt r.1))

end Sys2Proof.Machine
end

