-- ==== Sys2Proof/Machine/Sfc.lean ====
section
/-! DEFINITION. Frame constants, rays and pixel values (43_frame_controller.md R200 to R202), and the
commands that give them to the host: FRAMEPRE, PIXEL. -/

namespace Sys2Proof.Machine

/-- `FRAMECONST(rf, rs, tf, ts)` (R200): fcos, fsin and zoff, or nothing on a DOMAIN failure. -/
def frameConst (q : QFormat) (c : Cfg) : Option (Word × Word × Word) :=
  match cossin q ((c.rotFrame.toNat * c.rotStep.toNat : Nat) : Int) with
  | none => none
  | some cs => some (cs.1, cs.2, trunc32 ((c.transFrame.toNat : Int) * i32 c.transStep))

/-- `FRAMEPRE` (R203). -/
def execFramepre (s : State) : Host.Outcome State Fault Refusal :=
  .next <| s.finishCommand s.draws false <|
    match frameConst s.build.q (s.running .framepre).cfg with
    | none => .error .domain
    | some k => .ok { res0 := some k.1, res1 := some k.2.1, frame := some k }

/-- Where a pixel's ray and value come from (R201, R202): the configuration and the frame constants,
latched by PIXEL or snapped by the SFC. -/
structure View where
  cfg : Cfg
  pixfmt : PixFmt
  fcos : Word
  fsin : Word
  zoff : Word
  deriving DecidableEq, Repr

/-- `RAYGEN(x, y)` (R201), and whether one of its checks reports an overflow. -/
def rayGen (q : QFormat) (v : View) (x y : Nat) : Ray × Bool :=
  let px := (x : Int) * i32 v.cfg.pixStep
  let py := (y : Int) * i32 v.cfg.pixStep
  let u := px + i32 v.cfg.u0
  let w := py + i32 v.cfg.v0
  let r := rot2d q (i32 (trunc32 u)) (i32 (trunc32 w)) (i32 v.fcos) (i32 v.fsin)
  let sh := v.cfg.dirshift.toNat
  ({ x := v.cfg.camX
     yz := packYZ (i32 v.cfg.camY) (i32 (trunc32 (i32 v.cfg.camZ + i32 v.zoff)))
     dx := trunc32 (asr (i32 r.1) sh)
     dyz := packYZ (asr (i32 r.2.1) sh) (asr (i32 v.cfg.focal) sh) },
   chkAny [px, u, py, w] || r.2.2)

/-- What PIXEL computes from (R204). -/
def Latch.view (l : Latch) : View := ⟨l.cfg, l.pixfmt, l.frameCos, l.frameSin, l.frameZoff⟩

/-- `PIXEL` (R204). -/
def execPixel (s : State) : Host.Outcome State Fault Refusal :=
  let l := s.running .pixel
  let g := rayGen s.build.q l.view (xyX l.a) (xyY l.a)
  let r := march s l.cfg g.1 s.draws
  .next (s.finishCommand r.2 g.2 (marchResult l.cfg l.pixfmt r.1))

end Sys2Proof.Machine
end

