-- ==== Sys2Proof/Machine/Dispatch.lean ====
section
/-! DEFINITION. The meaning of each command (44_register_access.md R256): one CMD step. -/

namespace Sys2Proof.Machine

def exec (i : Instr) (s : State) : Host.Outcome State Fault Refusal :=
  match i with
  | .nop => Sys2Proof.Machine.execNop s
  | .cossin => Sys2Proof.Machine.execCossin s
  | .qexp => Sys2Proof.Machine.execQexp s
  | .isqrt => Sys2Proof.Machine.execIsqrt s
  | .rot2d => Sys2Proof.Machine.execRot2d s
  | .packyz => Sys2Proof.Machine.execPackyz s
  | .lutidx => Sys2Proof.Machine.execLutidx s
  | .lutfetch => Sys2Proof.Machine.execLutfetch s
  | .lutsample => Sys2Proof.Machine.execLutsample s
  | .march => Sys2Proof.Machine.execMarch s
  | .framepre => Sys2Proof.Machine.execFramepre s
  | .pixel => Sys2Proof.Machine.execPixel s

end Sys2Proof.Machine
end

