-- ==== Sys2Proof/Machine/FrameController.lean ====
section
/-! DEFINITION. SFC, the frame controller's sequencing (43_frame_controller.md R206 to R224): phases,
line synchronisation, the order of the active phase, rendering, reconstruction, mirror copies, the
deadline fault and the end of a frame. -/

namespace Sys2Proof.Machine

/-! ### The frame's geometry -/

def Snap.w (sn : Snap) : Nat := sn.cfg.fbW.toNat
def Snap.h (sn : Snap) : Nat := sn.cfg.fbH.toNat
def Snap.bpp (sn : Snap) : Nat := sn.pixfmt.width.bytes

/-- `FBADDR(x, y)` (R80, R78). -/
def Snap.fbAddr (sn : Snap) (x y : Nat) : Word :=
  BitVec.ofNat 32 (sn.cfg.fbBase.toNat + y * sn.cfg.fbStride.toNat + x * sn.bpp)

/-- `CONFIG_OK(snap)` (R212). -/
def Snap.configOk (sn : Snap) : Bool :=
  !(decide (sn.w = 0) || decide (sn.h = 0)
    || (decide (sn.pixfmt = .rgb565) && decide (sn.cfg.fbBase.toNat % 2 = 1))
    || (decide (sn.pixfmt = .rgb565) && decide (sn.cfg.fbStride.toNat % 2 = 1))
    || (decide (2 ≤ sn.h) && decide (sn.cfg.fbStride.toNat < sn.w * sn.bpp))
    || (sn.checker && (decide (sn.w < 2) || decide (sn.h < 2)))
    || (sn.checker && sn.mirror && decide (sn.h % 2 = 0) && decide (sn.w % 2 = 1)))

/-- `mirrored(y)` (R213). -/
def Snap.mirrored (sn : Snap) (y : Nat) : Bool := sn.mirror && decide (sn.h - 1 < 2 * y)

/-- `rendered(x, y)` (R213). -/
def Snap.rendered (sn : Snap) (x y : Nat) : Bool :=
  !sn.mirrored y && (!sn.checker || decide ((x + y) % 2 = 0))

/-- `skipped(x, y)` (R213). -/
def Snap.skipped (sn : Snap) (x y : Nat) : Bool := !sn.mirrored y && !sn.rendered x y

/-- The pixels FAULT(x0, y) paints (R220): those of row y not yet written in this frame. -/
def Snap.unwritten (sn : Snap) (x0 y x : Nat) : Bool :=
  !(decide (x < x0) && (sn.mirrored y || sn.rendered x y))

/-! ### The order of the active phase -/

/-- The first of the `n` columns from `x` on that satisfies `p`. -/
def nextCol (p : Nat → Bool) : Nat → Nat → Option Nat
  | 0, _ => none
  | n + 1, x => if p x then some x else nextCol p n (x + 1)

/-- Whether column `x` is worked on in a sub-phase of current row `y` (R214, R216): rendered pixels,
skipped pixels of row y − 1, every pixel of a mirrored row, the unwritten pixels of a late row. -/
def Snap.works (sn : Snap) (sub : SubPhase) (y x : Nat) : Bool :=
  match sub with
  | .render => sn.rendered x y
  | .recon => sn.skipped x (y - 1)
  | .mirror => true
  | .paint x0 => sn.unwritten x0 y x
  | .finish => true

/-- The first sub-phase on entering row `y` (R214); past the last row, the last row's reconstruction,
or the end. -/
def Snap.rowStart (sn : Snap) (y : Nat) : SubPhase × Nat :=
  if sn.h ≤ y then
    if sn.checker && !sn.mirrored (sn.h - 1) then (.recon, sn.h) else (.finish, sn.h)
  else if !sn.mirrored y then (.render, y)
  else if sn.checker && !sn.mirrored (y - 1) then (.recon, y)
  else (.mirror, y)

/-- The sub-phase after one is through its columns (R214). -/
def Snap.subNext (sn : Snap) (sub : SubPhase) (y : Nat) : SubPhase × Nat :=
  match sub with
  | .render => if sn.checker && decide (1 ≤ y) then (.recon, y) else sn.rowStart (y + 1)
  | .recon =>
    if sn.h ≤ y then (.finish, y)
    else if sn.mirrored y then (.mirror, y)
    else sn.rowStart (y + 1)
  | .mirror => sn.rowStart (y + 1)
  | .paint _ => (.finish, y)
  | .finish => (.finish, y)

/-- The first pixel operation at or after column `x` of a sub-phase, in the order of R214. The first
number bounds the sub-phases looked through; a sub-phase of a legal frame is never without a column. -/
def Snap.seek (sn : Snap) : Nat → SubPhase → Nat → Nat → Cursor
  | 0, _, y, _ => ⟨.finish, y, 0⟩
  | n + 1, sub, y, x =>
    match sub with
    | .finish => ⟨.finish, y, 0⟩
    | sub =>
      match nextCol (sn.works sub y) (sn.w - x) x with
      | some x' => ⟨sub, y, x'⟩
      | none =>
        let t := sn.subNext sub y
        Snap.seek sn n t.1 t.2 0

/-- How many sub-phases a frame can have: at most two per row, and the last row's reconstruction. -/
def Snap.subCount (sn : Snap) : Nat := 2 * sn.h + 2

/-- The cursor at the start of the active phase (R211, R214). -/
def Snap.firstCursor (sn : Snap) : Cursor :=
  sn.seek sn.subCount (sn.rowStart 0).1 (sn.rowStart 0).2 0

/-- The cursor after the operation at `c` (R214). -/
def Snap.nextCursor (sn : Snap) (c : Cursor) : Cursor := sn.seek sn.subCount c.sub c.y (c.x + 1)

/-! ### The end of a frame -/

/-- `next(c, P)` (R222). -/
def nextFrame (c p : Half) : Half :=
  if p.toNat ≤ c.toNat + 1 then 0#16 else c + 1#16

/-- The end of a frame that reaches COMPLETE or FAULT (R220 to R222): ADVANCE from the snapshot,
late_latch cleared, and WAIT or OFF as CTRL.EN says (R209). -/
def State.endFrame (s : State) : State :=
  let c := s.sfc.snap.cfg
  { s with
    cfg := { s.cfg with
      rotFrame := nextFrame c.rotFrame c.rotPeriod
      transFrame := nextFrame c.transFrame c.transPeriod }
    sfc := { s.sfc with
      phase := if s.ctrl.en then .wait else .off
      lateLatch := false } }

/-- `COMPLETE` (R221). -/
def State.complete (s : State) : State :=
  { s.endFrame with
    flags := { s.flags with done := true }
    frameCount := s.frameCount + 1#32 }

/-- The bookkeeping of FAULT(x0, y) (R220). -/
def State.lateEnd (s : State) (x0 y : Nat) : State :=
  { s.endFrame with
    flags := { s.flags with late := true }
    lateCount := s.lateCount + 1#32
    latePos := posWord y x0 }

/-! ### Framebuffer accesses -/

/-- The pixel at (x, y) read at its own width (R71, R73). -/
def State.readPixel (s : State) (n x y : Nat) : Option Word × Nat :=
  s.busRead n (s.sfc.snap.fbAddr x y) s.sfc.snap.pixfmt.width

/-- A pixel write; an error response is SfcFault(BUSERR) (R215, R216, R218, R220), and a good one goes
on with `k`. -/
def State.writePixelThen (s : State) (x y : Nat) (v : Word) (k : State → State) : State :=
  let r := s.busWrite (s.sfc.snap.fbAddr x y) s.sfc.snap.pixfmt.width v
  if r.2 then k r.1 else r.1.raiseSfcFault .buserr

/-- Move the cursor past its operation (R214). -/
def State.advanceCursor (s : State) : State :=
  { s with sfc := { s.sfc with cursor := s.sfc.snap.nextCursor s.sfc.cursor } }

/-! ### Pixel operations -/

/-- What the SFC renders from (R202): the snapshot and the frame constants. -/
def Sfc.view (f : Sfc) : View := ⟨f.snap.cfg, f.snap.pixfmt, f.fcos, f.fsin, f.zoff⟩

/-- `RENDER(x, y)` (R215). -/
def State.renderPixel (s : State) (x y : Nat) : State :=
  let v := s.sfc.view
  let g := rayGen s.build.q v x y
  let r := march s v.cfg g.1 s.draws
  let s1 := { s.noteOvf g.2 with draws := r.2 }
  match r.1 with
  | none => s1.raiseSfcFault .buserr
  | some o => s1.writePixelThen x y (o.pixel v.cfg v.pixfmt) State.advanceCursor

/-- `MIRRORCOPY(x, y)` (R218). -/
def State.mirrorPixel (s : State) (x y : Nat) : State :=
  let sn := s.sfc.snap
  let r := s.readPixel s.draws (sn.w - 1 - x) (sn.h - 1 - y)
  let s1 := { s with draws := r.2 }
  match r.1 with
  | none => s1.raiseSfcFault .buserr
  | some v => s1.writePixelThen x y v State.advanceCursor

/-- `FINAL(x', y')` (R216): where the final value of a pixel is read from. -/
def Snap.finalAt (sn : Snap) (x y : Nat) : Nat × Nat :=
  if sn.mirrored y then (sn.w - 1 - x, sn.h - 1 - y) else (x, y)

/-- The four neighbours of R216, a missing one replaced by the opposite one: left, right, up, down. -/
def Snap.neighbours (sn : Snap) (x r : Nat) : (Nat × Nat) × (Nat × Nat) × (Nat × Nat) × (Nat × Nat) :=
  let xl := if 1 ≤ x then x - 1 else x + 1
  let xr := if x + 2 ≤ sn.w then x + 1 else x - 1
  let yu := if 1 ≤ r then r - 1 else r + 1
  let yd := if r + 2 ≤ sn.h then r + 1 else r - 1
  ((xl, r), (xr, r), (x, yu), (x, yd))

/-- One field of `AVG4` in RGB565: bits [lo+n−1:lo] of the four pixels, averaged with floor (R217). -/
def avgField (lo n : Nat) (a b c d : Word) : Nat :=
  ((a.extractLsb' lo n).toNat + (b.extractLsb' lo n).toNat + (c.extractLsb' lo n).toNat
    + (d.extractLsb' lo n).toNat) / 4

/-- `AVG4(a, b, c, d)` (R217). -/
def avg4 (f : PixFmt) (a b c d : Word) : Word :=
  match f with
  | .rgb565 =>
    fieldAt (avgField 11 5 a b c d) 11 ||| fieldAt (avgField 5 6 a b c d) 5 ||| fieldAt (avgField 0 5 a b c d) 0
  | .l8 => fieldAt ((a.toNat + b.toNat + c.toNat + d.toNat) / 4) 0

/-- `FINAL` of a pixel read through the master port (R216). -/
def State.readFinal (s : State) (n : Nat) (p : Nat × Nat) : Option Word × Nat :=
  let t := s.sfc.snap.finalAt p.1 p.2
  s.readPixel n t.1 t.2

/-- The four reads of one reconstructed pixel, in order, up to the first error response (R216, R81). -/
def State.readFour (s : State) (n x r : Nat) : Option (Word × Word × Word × Word) × Nat :=
  let p := s.sfc.snap.neighbours x r
  let a := s.readFinal n p.1
  match a.1 with
  | none => (none, a.2)
  | some va =>
    let b := s.readFinal a.2 p.2.1
    match b.1 with
    | none => (none, b.2)
    | some vb =>
      let c := s.readFinal b.2 p.2.2.1
      match c.1 with
      | none => (none, c.2)
      | some vc =>
        let d := s.readFinal c.2 p.2.2.2
        match d.1 with
        | none => (none, d.2)
        | some vd => (some (va, vb, vc, vd), d.2)

/-- One reconstructed pixel (x, r) of RECON (R216). -/
def State.reconPixel (s : State) (x r : Nat) : State :=
  let q := s.readFour s.draws x r
  let s1 := { s with draws := q.2 }
  match q.1 with
  | none => s1.raiseSfcFault .buserr
  | some v =>
    s1.writePixelThen x r (avg4 s.sfc.snap.pixfmt v.1 v.2.1 v.2.2.1 v.2.2.2) State.advanceCursor

/-- After pixel x of late row y is painted (R220, R224): the next one to paint, or the bookkeeping. -/
def State.afterPaint (s : State) (x0 y x : Nat) : State :=
  let sn := s.sfc.snap
  match nextCol (sn.unwritten x0 y) (sn.w - (x + 1)) (x + 1) with
  | some x' => { s with sfc := { s.sfc with cursor := ⟨.paint x0, y, x'⟩ } }
  | none => s.lateEnd x0 y

/-- One painted pixel of FAULT(x0, y) (R220). -/
def State.paintPixel (s : State) (x0 y x : Nat) : State :=
  s.writePixelThen x y (s.sfc.snap.cfg.faultColor.setWidth 32) (fun t => t.afterPaint x0 y x)

/-- FAULT(x0, y) begins (R220, R224): its first painted pixel, or the bookkeeping alone. -/
def State.startFault (s : State) (x0 y : Nat) : State :=
  let sn := s.sfc.snap
  match nextCol (sn.unwritten x0 y) sn.w 0 with
  | some x => { s with sfc := { s.sfc with cursor := ⟨.paint x0, y, x⟩ } }.paintPixel x0 y x
  | none => s.lateEnd x0 y

/-! ### Line synchronisation -/

/-- The three answers of SYNC (R207). -/
inductive SyncResult where
  | late | ok | hold
  deriving DecidableEq, Repr

/-- The check of `SYNC(y, x)` (R207); VOFF is the snapshot's (log 24). -/
def State.syncResult (s : State) (y : Nat) : SyncResult :=
  if s.sfc.lateLatch then .late
  else if s.sfc.snap.cfg.voff.toNat + y < s.line.toNat then .ok
  else .hold

/-- SYNC with the operation it guards, one atomic step (R207, R224). A held SYNC has made its check,
which CUR_POS shows, and nothing else (log 11). -/
def State.guarded (s : State) (x y : Nat) (op : State → State) : State :=
  let s1 := { s with curPos := posWord y x }
  match s1.syncResult y with
  | .late => s1.startFault x y
  | .ok => op s1
  | .hold => s1

/-! ### Phases -/

/-- The snapshot of R59, from the registers as they stand. -/
def Snap.take (s : State) : Snap := ⟨s.ctrl.checker, s.ctrl.mirror, s.ctrl.pixfmt, s.cfg⟩

/-- The PRE step (R211): snapshot, CONFIG before DOMAIN (R278), frame constants, ACTIVE. -/
def State.preStep (s : State) : State :=
  let sn := Snap.take s
  let s1 := { s with sfc := { s.sfc with snap := sn } }
  if sn.configOk then
    match frameConst s.build.q sn.cfg with
    | none => s1.raiseSfcFault .domain
    | some k =>
      { s1 with
        frameCos := k.1
        frameSin := k.2.1
        frameZoff := k.2.2
        sfc := { s1.sfc with
          phase := .active
          fcos := k.1
          fsin := k.2.1
          zoff := k.2.2
          cursor := sn.firstCursor } }
  else s1.raiseSfcFault .config

/-- One step of the active phase (R214, R224). -/
def State.activeStep (s : State) : State :=
  let c := s.sfc.cursor
  match c.sub with
  | .render => s.guarded c.x c.y (fun t => t.renderPixel c.x c.y)
  | .mirror => s.guarded c.x c.y (fun t => t.mirrorPixel c.x c.y)
  | .recon => s.reconPixel c.x (c.y - 1)
  | .paint x0 => s.paintPixel x0 c.y c.x
  | .finish => s.complete

/-- The SFC's turn (R208, R210, R224): in PRE it waits for BUSY = 0; a turn it cannot use changes nothing. -/
def State.sfcTurn (s : State) : State :=
  match s.sfc.phase with
  | .off => if s.ctrl.en then { s with sfc := { s.sfc with phase := .wait } } else s
  | .wait => if s.ctrl.en then s else { s with sfc := { s.sfc with phase := .off } }
  | .pre => if s.busy then s else s.preStep
  | .active => s.activeStep

/-! ### The display's signals -/

/-- TICK (R205, R206, R210): LINE becomes 0; ignored in OFF, starts a frame in WAIT, makes the frame
late in PRE and ACTIVE. -/
def State.tick (s : State) : State :=
  let s1 := { s with line := 0#16 }
  match s.sfc.phase with
  | .off => s1
  | .wait =>
    { s1 with
      flags := { s.flags with fstart := true }
      sfc := { s.sfc with phase := .pre, lateLatch := false } }
  | .pre => { s1 with sfc := { s.sfc with lateLatch := true } }
  | .active => { s1 with sfc := { s.sfc with lateLatch := true } }

/-- LINE rises by 1, up to 65535 (R205, U14). -/
def State.lineUp (s : State) : State :=
  if s.line.toNat < 65535 then { s with line := s.line + 1#16 } else s

end Sys2Proof.Machine
end

