-- ==== Sys2Proof/Machine/RegisterPort.lean ====
section
/-! DEFINITION. The register port (44_register_access.md R250 to R253, R258): what each register reads
as, what a write does, and host accesses at platform addresses; the host's own memory accesses and
their visibility (20_memory.md R82, R84). -/

namespace Sys2Proof.Machine

/-- The value a register reads as (R251), reserved bits 0 (R23). -/
def State.readReg (s : State) : Reg → Word
  | .id => 0x4A4C5201#32
  | .param => 0x00100700#32 ||| BitVec.ofNat 32 s.build.q.frac
  | .ctrl => s.ctrl.toWord
  | .status => s.statusWord
  | .irqEn => s.irqEn.toWord
  | .cmd => 0#32
  | .opa => s.opa
  | .opb => s.opb
  | .opc => s.opc
  | .opd => s.opd
  | .res0 => s.res0
  | .res1 => s.res1
  | .accR => s.accR.setWidth 32
  | .accG => s.accG.setWidth 32
  | .accB => s.accB.setWidth 32
  | .lutBase => s.cfg.lutAddr
  | .fbBase => s.cfg.fbBase
  | .fbStride => s.cfg.fbStride.setWidth 32
  | .fbSize => s.cfg.fbH ++ s.cfg.fbW
  | .voff => s.cfg.voff.setWidth 32
  | .marchN => s.cfg.marchN.setWidth 32
  | .shifts => s.cfg.shifts.setWidth 32
  | .faultColor => s.cfg.faultColor.setWidth 32
  | .rotStep => s.cfg.rotStep
  | .rotPeriod => s.cfg.rotPeriod.setWidth 32
  | .transStep => s.cfg.transStep
  | .transPeriod => s.cfg.transPeriod.setWidth 32
  | .rotFrame => s.cfg.rotFrame.setWidth 32
  | .transFrame => s.cfg.transFrame.setWidth 32
  | .camX => s.cfg.camX
  | .camY => s.cfg.camY
  | .camZ => s.cfg.camZ
  | .u0 => s.cfg.u0
  | .v0 => s.cfg.v0
  | .pixStep => s.cfg.pixStep
  | .focal => s.cfg.focal
  | .dirshift => s.cfg.dirshift.setWidth 32
  | .frameCos => s.frameCos
  | .frameSin => s.frameSin
  | .frameZoff => s.frameZoff
  | .curPos => s.curPos
  | .latePos => s.latePos
  | .frameCount => s.frameCount
  | .lateCount => s.lateCount

/-- The phase after EN is written (R208, R209, R258): OFF and WAIT follow EN at once, PRE and ACTIVE run on. -/
def Phase.withEnable (p : Phase) (en : Bool) : Phase :=
  match p with
  | .off => if en then .wait else .off
  | .wait => if en then .wait else .off
  | .pre => .pre
  | .active => .active

/-- A write to a register (R252, R253, R254, R258); a read-only register ignores it (R23). -/
def State.writeReg (s : State) (r : Reg) (v : Word) : State :=
  match r with
  | .ctrl =>
    { s with
      ctrl := Ctrl.ofWord v
      sfc := { s.sfc with phase := s.sfc.phase.withEnable (Ctrl.ofWord v).en } }
  | .status => { s with flags := s.flags.clear (Flags.ofWord v) }
  | .irqEn => { s with irqEn := Flags.ofWord v }
  | .cmd => s.submit v
  | .opa => { s with opa := v }
  | .opb => { s with opb := v }
  | .opc => { s with opc := v }
  | .opd => { s with opd := v }
  | .lutBase => { s with cfg := { s.cfg with lutBase := v.extractLsb' 2 30 } }
  | .fbBase => { s with cfg := { s.cfg with fbBase := v } }
  | .fbStride => { s with cfg := { s.cfg with fbStride := v.setWidth 16 } }
  | .fbSize => { s with cfg := { s.cfg with fbW := v.extractLsb' 0 16, fbH := v.extractLsb' 16 16 } }
  | .voff => { s with cfg := { s.cfg with voff := v.setWidth 16 } }
  | .marchN => { s with cfg := { s.cfg with marchN := v.setWidth 8 } }
  | .shifts => { s with cfg := { s.cfg with shifts := v.setWidth 16 } }
  | .faultColor => { s with cfg := { s.cfg with faultColor := v.setWidth 16 } }
  | .rotStep => { s with cfg := { s.cfg with rotStep := v } }
  | .rotPeriod => { s with cfg := { s.cfg with rotPeriod := v.setWidth 16 } }
  | .transStep => { s with cfg := { s.cfg with transStep := v } }
  | .transPeriod => { s with cfg := { s.cfg with transPeriod := v.setWidth 16 } }
  | .rotFrame => { s with cfg := { s.cfg with rotFrame := v.setWidth 16 } }
  | .transFrame => { s with cfg := { s.cfg with transFrame := v.setWidth 16 } }
  | .camX => { s with cfg := { s.cfg with camX := v } }
  | .camY => { s with cfg := { s.cfg with camY := v } }
  | .camZ => { s with cfg := { s.cfg with camZ := v } }
  | .u0 => { s with cfg := { s.cfg with u0 := v } }
  | .v0 => { s with cfg := { s.cfg with v0 := v } }
  | .pixStep => { s with cfg := { s.cfg with pixStep := v } }
  | .focal => { s with cfg := { s.cfg with focal := v } }
  | .dirshift => { s with cfg := { s.cfg with dirshift := v.setWidth 5 } }
  | .id | .param | .res0 | .res1 | .accR | .accG | .accB => s
  | .frameCos | .frameSin | .frameZoff | .curPos | .latePos | .frameCount | .lateCount => s

/-! ### Host accesses at platform addresses -/

/-- An address's offset in the register window, if it is inside it (R22, R250). DESIGN CHOICE (log 29): a
window that starts above 0xFFFFFF00 runs past 2^32 − 1 and goes on at address 0. -/
def Build.windowOffset (b : Build) (addr : Word) : Option Word :=
  let off := addr - b.blockBase
  if off.toNat < 256 then some off else none

/-- R250: the register port answers aligned 32-bit accesses only. -/
def portAnswers (off : Word) (w : Width) : Bool := decide (w = .word) && decide (off.toNat % 4 = 0)

/-- The cells of a host memory write, little-endian, addresses modulo 2^32. -/
def writtenCells : Nat → Word → Word → List Host.Cell
  | 0, _, _ => []
  | n + 1, a, v => (a.toNat, v.extractLsb' 0 8) :: writtenCells n (a + 1#32) (v >>> 8)

/-- A host write of `w` bytes at a platform address: a register write inside the window (R250, R252,
R57), a memory write outside it, which is not visible at the master port yet (R82; log 6, log 22). -/
def State.hostWrite (s : State) (addr : Word) (w : Width) (v : Word) : State :=
  match Build.windowOffset s.build addr with
  | some off =>
    if portAnswers off w then
      match Reg.ofOffset off with
      | some r => { s.writeReg r v with port := .done }
      | none => { s with port := .done }
    else { s with port := .error }
  | none => { s with pending := s.pending ++ writtenCells w.bytes addr v, port := .done }

/-- One byte as the host reads it: its own last write, else what memory holds (log 22). -/
def State.hostByte (s : State) (a : Word) : Byte := (s.pendingAt a).getLastD (s.visibleByte a)

/-- `n` bytes as the host reads them. -/
def State.hostBytes (s : State) : Nat → Word → Nat
  | 0, _ => 0
  | n + 1, a => (s.hostByte a).toNat + 256 * s.hostBytes n (a + 1#32)

/-- A host read at a platform address (R250, R251, R57): the answer, and no other effect. -/
def State.hostRead (s : State) (addr : Word) (w : Width) : State :=
  match Build.windowOffset s.build addr with
  | some off =>
    if portAnswers off w then
      match Reg.ofOffset off with
      | some r => { s with port := .data (s.readReg r) }
      | none => { s with port := .data 0#32 }
    else { s with port := .error }
  | none => { s with port := .data (BitVec.ofNat 32 (s.hostBytes w.bytes addr)) }

/-! ### Making host writes visible -/

/-- The commands that read the table (R71). -/
def readsTable : Instr → Bool
  | .lutfetch | .lutsample | .march | .pixel => true
  | .nop | .cossin | .qexp | .isqrt | .rot2d | .packyz | .lutidx | .framepre => false

/-- Whether an address is in the table at a base (R166). -/
def inTable (c : Cfg) (a : Nat) : Bool :=
  decide ((BitVec.ofNat 32 a - c.lutAddr).toNat < 2 ^ 23)

/-- Whether an address is a byte of some pixel of a framebuffer (R80): of the rows that start at or
before it, the last one reaches furthest, so that row decides (`inFramebuffer_iff`). -/
def inFramebuffer (f : PixFmt) (c : Cfg) (a : Nat) : Bool :=
  let d := (BitVec.ofNat 32 a - c.fbBase).toNat
  let y := min (d / c.fbStride.toNat) (c.fbH.toNat - 1)
  decide (0 < c.fbH.toNat) && decide (d - y * c.fbStride.toNat < c.fbW.toNat * f.width.bytes)

/-- Whether the JRB may be reading a byte the host must leave alone now (R84, R87): the table while a
command that reads it is BUSY or the SFC is not OFF, the framebuffer in PRE and ACTIVE (log 7). -/
def State.contested (s : State) (a : Nat) : Bool :=
  (match s.latch with
    | some l => readsTable l.cmd && inTable l.cfg a
    | none => false)
  || (match s.sfc.phase with
    | .off => false
    | .wait => inTable s.cfg a
    | .pre => inTable s.cfg a || inFramebuffer s.ctrl.pixfmt s.cfg a
    | .active =>
      inTable s.sfc.snap.cfg a || inFramebuffer s.sfc.snap.pixfmt s.sfc.snap.cfg a)

/-- Write a list of cells, oldest first; addresses are taken modulo 2^32. -/
def Memory.setAll (m : Memory) : List Host.Cell → Memory
  | [] => m
  | c :: cs => Memory.setAll (Memory.set m (c.1 % 2 ^ 32) c.2) cs

/-- The host makes its writes visible (R82): every pending byte reaches memory, but a contested one,
which stays a race (R84, U1; log 7). -/
def State.hostPublish (s : State) : State :=
  { s with
    mem := Memory.setAll s.mem (s.pending.filter fun c => !s.contested c.1)
    pending := s.pending.filter fun c => s.contested c.1 }

/-! ### Reset -/

/-- The reset input (R300): every JRB register and internal state at its reset value, platform memory
and everything outside the block as it was (log 23). -/
def State.resetInput (s : State) : State :=
  { State.resetOf s.build with
    line := s.line
    mem := s.mem
    pending := s.pending
    port := s.port
    program := s.program
    sched := s.sched
    draws := s.draws }

end Sys2Proof.Machine
end

