-- ==== Sys2Proof/Machine/HostNotation.lean ====
section
/-! DEFINITION. Host programs in the notation of 30_encoding.md R110 to R112: expansion, encoding, and
the HOST agent's next bus operation. -/

namespace Sys2Proof.Machine

/-- `CLR`'s mask of the named bits (R111). -/
def clearMask : List Nat → Word
  | [] => 0#32
  | b :: bs => bitAt true b ||| clearMask bs

/-- The operand writes of `CALL`, for each operand given (R111). -/
def operandWrites : List Reg → List Word → List HostPrim
  | r :: rs, v :: vs => .write r.offset v :: operandWrites rs vs
  | _, _ => []

/-- `CMD m` is `WR CMD, OPCODE(m)` (R111). -/
def cmdWrite (i : Instr) : HostPrim := .write Reg.cmd.offset (encode i)

/-- The expansion of one line (R110, R111). -/
def expand : HostLine → List HostPrim
  | .wr r v => [.write r.offset v]
  | .rd r => [.read r.offset]
  | .cmd i => [cmdWrite i]
  | .poll => [.waitBit 0 false]
  | .waitf bit => [.waitBit bit true]
  | .clr bits => [.write Reg.status.offset (clearMask bits)]
  | .call i operands => operandWrites [.opa, .opb, .opc, .opd] operands ++ [cmdWrite i, .waitBit 0 false]

/-- A whole program, expanded. -/
def expandAll (ls : List HostLine) : List HostPrim := ls.flatMap expand

/-- The (offset, data) pair of a bus operation, no data for a read (R112); a repeated `RD STATUS` is a read. -/
def HostPrim.encode : HostPrim → Word × Option Word
  | .write off v => (off, some v)
  | .read off => (off, none)
  | .waitBit _ _ => (Reg.status.offset, none)

/-- A program's encoding (R112). -/
def encodeProgram (ls : List HostLine) : List (Word × Option Word) := (expandAll ls).map HostPrim.encode

/-- A host program loaded into a state (log 18). -/
def State.withProgram (s : State) (ls : List HostLine) : State := { s with program := expandAll ls }

/-- The HOST's next bus operation (R110, R111). POLL and WAITF read STATUS and stay until the bit has
the value they wait for; with no program left the host does nothing. -/
def State.hostProgramTurn (s : State) : State :=
  match s.program with
  | [] => s
  | .write off v :: rest => { s with program := rest }.hostWrite (s.build.blockBase + off) .word v
  | .read off :: rest => { s with program := rest }.hostRead (s.build.blockBase + off) .word
  | .waitBit bit v :: rest =>
    let s1 := s.hostRead (s.build.blockBase + Reg.status.offset) .word
    if s.statusWord.getLsbD bit = v then { s1 with program := rest } else s1

end Sys2Proof.Machine
end

