-- ==== Sys2Proof/Machine/Agents.lean ====
section
/-! DEFINITION. The turns of the agents (44_register_access.md R257): one atomic step each. -/

namespace Sys2Proof.Machine

/-- The CMD agent's turn (R256): the command in the latch runs; with BUSY = 0 the agent is not enabled
and its turn changes nothing (log 2). -/
def cmdTurn (s : State) : Host.Outcome State Fault Refusal :=
  match s.latch with
  | some l => exec l.cmd s
  | none => .next s

/-- One turn (R257, R205, R262, R300). -/
def takeTurn (t : Turn) (s : State) : Host.Outcome State Fault Refusal :=
  match t with
  | .hostProgram => .next s.hostProgramTurn
  | .hostWrite addr w data => .next (s.hostWrite addr w data)
  | .hostRead addr w => .next (s.hostRead addr w)
  | .hostPublish => .next s.hostPublish
  | .cmd => cmdTurn s
  | .sfc => .next s.sfcTurn
  | .lineUp => .next s.lineUp
  | .tick => .next s.tick
  | .scanOut => .next s
  | .reset => .next s.resetInput

/-- Whose turn it is (log 1): the first listed turn, and with none listed a free one (U14, U15). -/
def nextTurn (s : State) : Turn × State :=
  match s.sched with
  | t :: rest => (t, { s with sched := rest })
  | [] => (Config.freeTurn s.draws, { s with draws := s.draws + 1 })

/-- `s` with the command of an opcode-table word in the engine's latch, accepted now, and the CMD agent
next to step (log 19); a word that is no command is submitted by the next turn instead. -/
def placeCommand (s : State) (nbits w : Nat) : State :=
  match decodeTableWord nbits w with
  | some i => { s.accept i with sched := .cmd :: s.sched }
  | none =>
    { s with
      sched := .hostWrite (s.build.blockBase + Reg.cmd.offset) .word (BitVec.ofNat 32 w) :: s.sched }

end Sys2Proof.Machine
end

