-- ==== Sys2Proof/Machine/Step.lean ====
section
/-! DEFINITION. One step of the system: the next turn is taken (44_register_access.md R257). -/

namespace Sys2Proof.Machine

/-- One atomic step: the agent whose turn it is steps. -/
def step (s : State) : Host.Outcome State Fault Refusal :=
  takeTurn (nextTurn s).1 (nextTurn s).2

/-- `s` with an opcode-table word placed where the next step runs it (log 19). -/
def State.withFetchWord (s : State) (nbits w : Nat) : State := placeCommand s nbits w

end Sys2Proof.Machine
end

