-- ==== Sys2Proof/Safety.lean ====
section
/-! DEFINITION. What holds in every state a run can reach, in the terms the claims use: memory in its
canonical form, the phase in step with CTRL.EN, commands and frames exclusive, and a legal cursor in a
legal frame. -/

namespace Sys2Proof.Machine

/-- Platform memory is in canonical form. -/
def State.memoryOk (s : State) : Bool := Memory.wf s.mem

/-- R208, R209, R258: OFF only with EN = 0, WAIT only with EN = 1. -/
def State.enableOk (s : State) : Bool :=
  match s.sfc.phase with
  | .off => !s.ctrl.en
  | .wait => s.ctrl.en
  | .pre => true
  | .active => true

/-- R210, R308: no command is BUSY in the active phase. -/
def State.exclusiveOk (s : State) : Bool :=
  match s.sfc.phase with
  | .active => !s.busy
  | .off | .wait | .pre => true

/-- R206, R220, R221: late_latch is 1 only while a frame is in PRE or ACTIVE. -/
def State.lateLatchOk (s : State) : Bool :=
  match s.sfc.phase with
  | .off | .wait => !s.sfc.lateLatch
  | .pre | .active => true

/-- The cursor is at a pixel its sub-phase works on, inside the frame (R213, R214, R216, R220). -/
def Snap.cursorOk (sn : Snap) (c : Cursor) : Bool :=
  match c.sub with
  | .render => decide (c.y < sn.h) && decide (c.x < sn.w) && sn.rendered c.x c.y
  | .recon =>
    sn.checker && decide (1 ≤ c.y) && decide (c.y ≤ sn.h) && decide (c.x < sn.w) && sn.skipped c.x (c.y - 1)
  | .mirror => decide (c.y < sn.h) && decide (c.x < sn.w) && sn.mirrored c.y
  | .paint x0 =>
    decide (c.y < sn.h) && decide (c.x < sn.w) && decide (x0 < sn.w) && sn.unwritten x0 c.y c.x
  | .finish => true

/-- R211, R212, R214: the active phase runs on a legal snapshot with the cursor on a pixel of its sub-phase. -/
def State.frameOk (s : State) : Bool :=
  match s.sfc.phase with
  | .active => s.sfc.snap.configOk && s.sfc.snap.cursorOk s.sfc.cursor
  | .off | .wait | .pre => true

end Sys2Proof.Machine
end

