-- ==== Sys2Proof/Certificates/Slice0/Obligations.lean ====
section
/-! DEFINITION. The claims about the JRB, each a proposition for the provers. `Claims` holds the
vocabulary: the rules of spec/ written again, apart from the model's own definitions where they compute. -/

namespace Sys2Proof.Claims

open Sys2Proof.Machine

/-! ### Numbers -/

/-- ONE as an integer (R7). -/
def one (q : QFormat) : Int := 2 ^ q.frac

/-- A value outside the i32 range (R13, R131). -/
def outside (v : Int) : Prop := v < -(2 ^ 31) ∨ 2 ^ 31 ≤ v

/-- Whether some value of a list is outside the i32 range. -/
def anyOutside (vs : List Int) : Prop := ∃ v ∈ vs, outside v

/-! ### Ends of a command -/

/-- A command step that wrote no result (R256, R271): latch emptied, ERR, CMDDONE, OVF as it was. -/
def ended (s : State) (e : ErrCode) (n : Nat) : State :=
  { s with latch := none, err := e, draws := n, flags := { s.flags with cmddone := true } }

/-- cos and sin of theta in quarter turns of 2^Q (R133), theta in [0, 4·ONE). -/
def cosSin (q : QFormat) (th : Int) : Int × Int :=
  let u := th % one q
  let c := one q - u ^ 2 / one q
  let s := one q - (one q - u) ^ 2 / one q
  if th < one q then (c, s)
  else if th < 2 * one q then (-s, c)
  else if th < 3 * one q then (-c, -s)
  else (s, -c)

/-- The fraction ladder of R136 on a value y and a residue r, from step k. -/
def fractionLadder : List Nat → Nat → Nat → Nat → Nat
  | [], _, _, y => y
  | l :: ls, k, r, y =>
    if r < l then fractionLadder ls (k + 1) r y
    else if 2 ^ 31 ≤ y + y / 2 ^ k then 2 ^ 31 - 1
    else fractionLadder ls (k + 1) (r - l) (y + y / 2 ^ k)

/-- e^x by range reduction (R136): x / LN2 doublings of ONE, saturated past 30 − Q of them, then the
fraction ladder on what is left. -/
def expValue (q : QFormat) (x : Nat) : Nat :=
  if 30 - q.frac < x / qexpLn2 q then 2 ^ 31 - 1
  else fractionLadder (qexpLadder q) 1 (x % qexpLn2 q) (2 ^ (q.frac + x / qexpLn2 q))

/-- The documented saturation thresholds T(Q) (R137). -/
def expThreshold : QFormat → Nat
  | .q10 => 14910
  | .q11 => 28400
  | .q12 => 53941
  | .q13 => 102204

/-- The documented excess of cos² + sin² over ONE² (R134). -/
def normExcess : QFormat → Int
  | .q10 => 132994
  | .q11 => 528338
  | .q12 => 2105090
  | .q13 => 8404808

/-! ### Memory as the JRB and the host see it -/

/-- Byte `k` of a word. -/
def byteOf (v : Word) (k : Nat) : Byte := v.extractLsb' (8 * k) 8

/-- A master-port read of `w` bytes at `a` may deliver `v` (R72, R77, R82, R84): the platform answers,
each byte is the visible one or one the host has pending there, and the bytes above are 0. -/
def mayRead (s : State) (a : Word) (w : Width) (v : Word) : Prop :=
  Build.busOk s.build a w .read = true
  ∧ (∀ k, k < w.bytes →
      byteOf v k ∈ s.visibleByte (a + BitVec.ofNat 32 k) :: s.pendingAt (a + BitVec.ofNat 32 k))
  ∧ v.toNat < 2 ^ (8 * w.bytes)

/-- A good write of the low `w` bytes of `v` at `a` (R72, R78): those bytes, and nothing else. -/
def stored (m m' : Memory) (a : Word) (w : Width) (v : Word) : Prop :=
  ∀ b : Word, Memory.get m' b.toNat =
    if (b - a).toNat < w.bytes then some (byteOf v (b - a).toNat) else Memory.get m b.toNat

/-- A failed write (R77, U3): each of those bytes is the old or the new one, and nothing else changed. -/
def torn (m m' : Memory) (a : Word) (w : Width) (v : Word) : Prop :=
  ∀ b : Word, Memory.get m' b.toNat = Memory.get m b.toNat
    ∨ ((b - a).toNat < w.bytes ∧ Memory.get m' b.toNat = some (byteOf v (b - a).toNat))

/-! ### The table and the raymarch loop -/

/-- The cell of a coordinate on one axis (R164). -/
def cell (q : QFormat) (c : Int) : Int := ((c + one q) % (2 * one q)) / 2 ^ (q.frac - 6)

/-- `f` is the cell of a coordinate, whatever integer it is (R164): the coordinate folds into [−ONE, ONE),
and cell `f` is the one of the 128 that holds the folded coordinate. -/
def inCell (q : QFormat) (c : Int) (f : Nat) : Prop :=
  let w := ((c + one q) % (2 * one q) - one q : Int);
  (-one q ≤ w) ∧ w < one q ∧ f < 128 ∧ (f : Int) = cell q c
  ∧ ∀ j : Int, (f : Int) = j ↔ -one q + j * 2 ^ (q.frac - 6) ≤ w ∧ w < -one q + (j + 1) * 2 ^ (q.frac - 6)

/-- The index of a position from its three cells (R165): `x·128² + y·128 + z`. -/
def indexOf (q : QFormat) (x yz : Word) : Nat :=
  ((cell q x.toInt) * 128 ^ 2 + (cell q (yz.extractLsb' 16 16).toInt) * 128
    + cell q (yz.extractLsb' 0 16).toInt).toNat

/-- The address of an entry (R166). -/
def tableAddr (c : Cfg) (i : Nat) : Word := (c.lutBase ++ 0#2) + BitVec.ofNat 32 (4 * i)

/-- The position words after `n` units of distance along a ray (R184): the whole way from the start at once. -/
def posX (ray : Ray) (n : Nat) : Word := ray.x + ray.dx * BitVec.ofNat 32 n
def posYZ (ray : Ray) (n : Nat) : Word := ray.yz + ray.dyz * BitVec.ofNat 32 n

/-- The distance travelled after the entries of a list. -/
def travelled (es : List Word) : Nat := (es.map entryD).sum

/-- `es` are entries a ray may fetch, in order (R181, R184): each one read at the index of the position
the entries before it lead to. -/
def fetched (s : State) (c : Cfg) (ray : Ray) (es : List Word) : Prop :=
  ∀ k, (h : k < es.length) →
    let n := travelled (es.take k)
    mayRead s (tableAddr c (indexOf s.build.q (posX ray n) (posYZ ray n))) .word es[k]

/-- What a ray ends with: accumulators, fetches, hit. -/
structure RayEnd where
  ar : Nat
  ag : Nat
  ab : Nat
  fetches : Nat
  hit : Bool

/-- A ray of at most `N` iterations ends as `o` (R182, R184): on a hit, whose colour counts for the
iterations left, or after N entries that were no hit. -/
def rayEnds (s : State) (c : Cfg) (ray : Ray) (o : RayEnd) : Prop :=
  ∃ pre : List Word, (∀ e ∈ pre, entryD e ≠ 0) ∧
    ((∃ e, entryD e = 0 ∧ pre.length < c.marchN.toNat ∧ fetched s c ray (pre ++ [e])
        ∧ o.ar = (pre.map entryR).sum + entryR e * (c.marchN.toNat - pre.length)
        ∧ o.ag = (pre.map entryG).sum + entryG e * (c.marchN.toNat - pre.length)
        ∧ o.ab = (pre.map entryB).sum + entryB e * (c.marchN.toNat - pre.length)
        ∧ o.fetches = pre.length + 1 ∧ o.hit = true)
      ∨ (pre.length = c.marchN.toNat ∧ fetched s c ray pre
        ∧ o.ar = (pre.map entryR).sum ∧ o.ag = (pre.map entryG).sum ∧ o.ab = (pre.map entryB).sum
        ∧ o.fetches = pre.length ∧ o.hit = false))

/-- A ray of at most `N` iterations meets an error response (R184, R77) after entries that were no hit. -/
def rayFails (s : State) (c : Cfg) (ray : Ray) : Prop :=
  ∃ pre : List Word, (∀ e ∈ pre, entryD e ≠ 0) ∧ pre.length < c.marchN.toNat ∧ fetched s c ray pre ∧
    let n := travelled pre
    Build.busOk s.build (tableAddr c (indexOf s.build.q (posX ray n) (posYZ ray n))) .word .read = false

/-- The pixel of accumulators (R185), with the shift amounts read from SHIFTS (R45). -/
def pixelOf (c : Cfg) (f : PixFmt) (o : RayEnd) : Word :=
  BitVec.ofNat 32 (match f with
    | .rgb565 =>
      o.ar / 2 ^ (c.shifts.toNat % 16) % 32 * 2048 + o.ag / 2 ^ (c.shifts.toNat / 16 % 16) % 64 * 32
        + o.ab / 2 ^ (c.shifts.toNat / 256 % 16) % 32
    | .l8 => (o.ar + o.ag + o.ab) / 2 ^ (c.shifts.toNat / 4096) % 256)

/-- The end of a MARCH or PIXEL that succeeded (R184, R186, R109). -/
def endedWithPixel (s : State) (c : Cfg) (f : PixFmt) (o : RayEnd) (n : Nat) : State :=
  { ended s .ok n with
    res0 := pixelOf c f o
    res1 := BitVec.ofNat 32 ((if o.hit then 256 else 0) + o.fetches)
    accR := BitVec.ofNat 16 o.ar
    accG := BitVec.ofNat 16 o.ag
    accB := BitVec.ofNat 16 o.ab }

/-! ### Rays of pixels -/

/-- u and v of pixel (x, y) before truncation, and the products they come from (R201). -/
def screen (c : Cfg) (x y : Nat) : List Int :=
  [(x : Int) * c.pixStep.toInt, x * c.pixStep.toInt + c.u0.toInt,
   (y : Int) * c.pixStep.toInt, y * c.pixStep.toInt + c.v0.toInt]

/-- u and v as words (R201). -/
def screenU (c : Cfg) (x : Nat) : Word := BitVec.ofNat 32 x * c.pixStep + c.u0
def screenV (c : Cfg) (y : Nat) : Word := BitVec.ofNat 32 y * c.pixStep + c.v0

/-- The six checked intermediates of ROT2D (R140). -/
def rotChecked (x y c s : Int) : List Int := [c * x, s * y, c * y, s * x, c * x + s * y, c * y - s * x]

/-- The two results of ROT2D (R140), floor shifts. -/
def rotX (q : QFormat) (x y c s : Int) : Word := BitVec.ofInt 32 ((c * x + s * y) / 2 ^ q.frac)
def rotY (q : QFormat) (x y c s : Int) : Word := BitVec.ofInt 32 ((c * y - s * x) / 2 ^ q.frac)

/-- `RAYGEN(x, y)` (R201) in word arithmetic: the packed words are `y·2^16 + z` modulo 2^32 (R162). -/
def rayOf (q : QFormat) (v : View) (x y : Nat) : Ray :=
  let d := v.cfg.dirshift.toNat
  let dx := rotX q (screenU v.cfg x).toInt (screenV v.cfg y).toInt v.fcos.toInt v.fsin.toInt
  let dy := rotY q (screenU v.cfg x).toInt (screenV v.cfg y).toInt v.fcos.toInt v.fsin.toInt
  { x := v.cfg.camX
    yz := v.cfg.camY <<< 16 + (v.cfg.camZ + v.zoff)
    dx := dx.sshiftRight d
    dyz := (dy.sshiftRight d) <<< 16 + v.cfg.focal.sshiftRight d }

/-- Whether RAYGEN reports an overflow (R201, R131). -/
def rayOverflows (v : View) (x y : Nat) : Prop :=
  anyOutside (screen v.cfg x y
    ++ rotChecked (screenU v.cfg x).toInt (screenV v.cfg y).toInt v.fcos.toInt v.fsin.toInt)

/-! ### The frame controller -/

/-- Row `y` is a mirrored one (R213): MIRROR = 1 and 2y > H − 1. -/
def mirroredRow (sn : Snap) (y : Nat) : Bool := sn.mirror && decide (sn.cfg.fbH.toNat - 1 < 2 * y)

/-- Pixel (x, y) is raymarched (R213): its row is not mirrored, and CHECKER = 0 or x + y is even. -/
def renderedPixel (sn : Snap) (x y : Nat) : Bool :=
  !mirroredRow sn y && (!sn.checker || decide ((x + y) % 2 = 0))

/-- Pixel (x, y) is reconstructed (R213): its row is not mirrored, CHECKER = 1 and x + y is odd. -/
def skippedPixel (sn : Snap) (x y : Nat) : Bool :=
  !mirroredRow sn y && sn.checker && decide ((x + y) % 2 = 1)

/-- FAULT(x0, y) paints column `x` (R220): in a mirrored row the columns from x0 on; in another row
those and the skipped ones before x0. -/
def paintedColumn (sn : Snap) (x0 y x : Nat) : Bool :=
  decide (x0 ≤ x) || skippedPixel sn x y

/-- The frame controller stopped on a fatal fault (R276). -/
def faulted (s : State) (c : SfcCause) : State :=
  { s with
    flags := { s.flags with sfcerr := true }
    cause := c
    ctrl := { s.ctrl with en := false }
    sfc := { s.sfc with phase := .off, lateLatch := false } }

/-- The address of pixel (x, y) in word arithmetic (R80, R78). -/
def pixelAddr (sn : Snap) (x y : Nat) : Word :=
  sn.cfg.fbBase + BitVec.ofNat 32 y * sn.cfg.fbStride.setWidth 32
    + BitVec.ofNat 32 x * (match sn.pixfmt with | .rgb565 => 2#32 | .l8 => 1#32)

/-- BPP as an access width (R80). -/
def pixelWidth : PixFmt → Width
  | .rgb565 => .half
  | .l8 => .byte

/-- A pixel write from state `s` ends in `t` (R215, R216, R218, R220): on an answered write, memory with
the pixel stored and the rest as `good` says; on an error response, SfcFault(BUSERR) with a torn write. -/
def pixelWritten (s : State) (x y : Nat) (v : Word) (good : Memory → State) (t : State) : Prop :=
  let sn := s.sfc.snap
  let a := pixelAddr sn x y
  let w := pixelWidth sn.pixfmt
  if Build.busOk s.build a w .write = true then ∃ m, stored s.mem m a w v ∧ t = good m
  else ∃ m, torn s.mem m a w v ∧ t = faulted { s with mem := m, draws := s.draws + w.bytes } .buserr

/-- A pixel read that may deliver `v` (R71, R73). -/
def pixelRead (s : State) (p : Nat × Nat) (v : Word) : Prop :=
  mayRead s (pixelAddr s.sfc.snap p.1 p.2) (pixelWidth s.sfc.snap.pixfmt) v

/-- A pixel read that gets an error response. -/
def pixelFails (s : State) (p : Nat × Nat) : Prop :=
  Build.busOk s.build (pixelAddr s.sfc.snap p.1 p.2) (pixelWidth s.sfc.snap.pixfmt) .read = false

/-- Where R216 reads each of the four neighbours of a skipped pixel (x, r): left, right, up, down, the
opposite one for a missing one, and the source pixel for one in a mirrored row. -/
def neighbourReads (sn : Snap) (x r : Nat) : List (Nat × Nat) :=
  let w := sn.cfg.fbW.toNat
  let h := sn.cfg.fbH.toNat
  [(if x = 0 then x + 1 else x - 1, r), (if x + 1 < w then x + 1 else x - 1, r),
   (x, if r = 0 then r + 1 else r - 1), (x, if r + 1 < h then r + 1 else r - 1)].map
    fun p => if mirroredRow sn p.2 then (w - 1 - p.1, h - 1 - p.2) else p

/-- The mean of four pixels with floor, per channel in RGB565 (R217). -/
def mean4 (f : PixFmt) (a b c d : Word) : Word :=
  let field (lo n : Nat) : Nat :=
    ((a.toNat / 2 ^ lo % 2 ^ n) + (b.toNat / 2 ^ lo % 2 ^ n) + (c.toNat / 2 ^ lo % 2 ^ n)
      + (d.toNat / 2 ^ lo % 2 ^ n)) / 4
  BitVec.ofNat 32 (match f with
    | .rgb565 => field 11 5 * 2048 + field 5 6 * 32 + field 0 5
    | .l8 => (a.toNat + b.toNat + c.toNat + d.toNat) / 4)

/-- The counter of R222 as a number. -/
def advanced (c p : Half) : Nat := if p.toNat ≤ c.toNat + 1 then 0 else c.toNat + 1

/-- The end of a frame (R220 to R222): counters from the snapshot, late_latch 0, WAIT or OFF. -/
def frameEnded (s : State) : State :=
  { s with
    cfg := { s.cfg with
      rotFrame := BitVec.ofNat 16 (advanced s.sfc.snap.cfg.rotFrame s.sfc.snap.cfg.rotPeriod)
      transFrame := BitVec.ofNat 16 (advanced s.sfc.snap.cfg.transFrame s.sfc.snap.cfg.transPeriod) }
    sfc := { s.sfc with phase := if s.ctrl.en then .wait else .off, lateLatch := false } }

/-- A row and a column as CUR_POS and LATE_POS hold them (R54, R55). -/
def position (y x : Nat) : Word := BitVec.ofNat 32 (y % 65536 * 65536 + x % 65536)

/-- The columns of a row that satisfy a predicate, left to right. -/
def columns (sn : Snap) (p : Nat → Bool) : List Nat := (List.range sn.cfg.fbW.toNat).filter p

/-- The pixel operations of the active phase, in the order of R214, with the pixel classes of R213. -/
def frameOrder (sn : Snap) : List Cursor :=
  let h := sn.cfg.fbH.toNat
  ((List.range h).flatMap fun y =>
    if mirroredRow sn y then
      (if sn.checker && !mirroredRow sn (y - 1) then
        (columns sn fun x => skippedPixel sn x (y - 1)).map fun x => ⟨.recon, y, x⟩ else [])
      ++ (columns sn fun _ => true).map fun x => ⟨.mirror, y, x⟩
    else
      ((columns sn fun x => renderedPixel sn x y).map fun x => ⟨.render, y, x⟩)
      ++ (if sn.checker && decide (1 ≤ y) then
        (columns sn fun x => skippedPixel sn x (y - 1)).map fun x => ⟨.recon, y, x⟩ else []))
  ++ (if sn.checker && !mirroredRow sn (h - 1) then
    (columns sn fun x => skippedPixel sn x (h - 1)).map fun x => ⟨.recon, h, x⟩ else [])

/-- The cursor after `k` operations of a frame. -/
def cursorAt (sn : Snap) : Nat → Cursor
  | 0 => sn.firstCursor
  | k + 1 => sn.nextCursor (cursorAt sn k)

/-- `k` turns of the frame controller alone. -/
def sfcTurns : Nat → State → State
  | 0, s => s
  | k + 1, s => sfcTurns k s.sfcTurn

/-! ### Registers -/

/-- The writable bits of the read-write registers (R22, R26, R35, R37 to R52); none for the others. -/
def writableBits : Reg → Option Word
  | .ctrl => some 0x0000000F#32
  | .irqEn => some 0x00009C0E#32
  | .opa | .opb | .opc | .opd => some 0xFFFFFFFF#32
  | .lutBase => some 0xFFFFFFFC#32
  | .fbBase | .fbSize | .rotStep | .transStep => some 0xFFFFFFFF#32
  | .camX | .camY | .camZ | .u0 | .v0 | .pixStep | .focal => some 0xFFFFFFFF#32
  | .fbStride | .voff | .shifts | .faultColor | .rotPeriod | .transPeriod => some 0x0000FFFF#32
  | .rotFrame | .transFrame => some 0x0000FFFF#32
  | .marchN => some 0x000000FF#32
  | .dirshift => some 0x0000001F#32
  | .id | .param | .status | .cmd | .res0 | .res1 | .accR | .accG | .accB => none
  | .frameCos | .frameSin | .frameZoff | .curPos | .latePos | .frameCount | .lateCount => none

/-- The read-only registers (R22). -/
def readOnly : Reg → Bool
  | .id | .param | .res0 | .res1 | .accR | .accG | .accB => true
  | .frameCos | .frameSin | .frameZoff | .curPos | .latePos | .frameCount | .lateCount => true
  | _ => false

/-- A bit at its place in a register, as a number. -/
def bitValue (b : Bool) (k : Nat) : Nat := if b then 2 ^ k else 0

/-- What each register reads as, field by field (R24 to R26, R35 to R57); STATUS has a claim of its own. -/
def registerValue (s : State) : Reg → Nat
  | .id => 0x4A4C5201
  | .param => 0x00100700 + s.build.q.frac
  | .ctrl => bitValue s.ctrl.en 0 + bitValue s.ctrl.checker 1 + bitValue s.ctrl.mirror 2
      + bitValue (decide (s.ctrl.pixfmt = .l8)) 3
  | .status => s.statusWord.toNat
  | .irqEn => bitValue s.irqEn.cmdovr 1 + bitValue s.irqEn.ovf 2 + bitValue s.irqEn.cmddone 3
      + bitValue s.irqEn.done 10 + bitValue s.irqEn.late 11 + bitValue s.irqEn.sfcerr 12
      + bitValue s.irqEn.fstart 15
  | .cmd => 0
  | .opa => s.opa.toNat | .opb => s.opb.toNat | .opc => s.opc.toNat | .opd => s.opd.toNat
  | .res0 => s.res0.toNat | .res1 => s.res1.toNat
  | .accR => s.accR.toNat | .accG => s.accG.toNat | .accB => s.accB.toNat
  | .lutBase => 4 * s.cfg.lutBase.toNat
  | .fbBase => s.cfg.fbBase.toNat | .fbStride => s.cfg.fbStride.toNat
  | .fbSize => s.cfg.fbH.toNat * 65536 + s.cfg.fbW.toNat
  | .voff => s.cfg.voff.toNat | .marchN => s.cfg.marchN.toNat | .shifts => s.cfg.shifts.toNat
  | .faultColor => s.cfg.faultColor.toNat
  | .rotStep => s.cfg.rotStep.toNat | .rotPeriod => s.cfg.rotPeriod.toNat
  | .transStep => s.cfg.transStep.toNat | .transPeriod => s.cfg.transPeriod.toNat
  | .rotFrame => s.cfg.rotFrame.toNat | .transFrame => s.cfg.transFrame.toNat
  | .camX => s.cfg.camX.toNat | .camY => s.cfg.camY.toNat | .camZ => s.cfg.camZ.toNat
  | .u0 => s.cfg.u0.toNat | .v0 => s.cfg.v0.toNat | .pixStep => s.cfg.pixStep.toNat
  | .focal => s.cfg.focal.toNat | .dirshift => s.cfg.dirshift.toNat
  | .frameCos => s.frameCos.toNat | .frameSin => s.frameSin.toNat | .frameZoff => s.frameZoff.toNat
  | .curPos => s.curPos.toNat | .latePos => s.latePos.toNat
  | .frameCount => s.frameCount.toNat | .lateCount => s.lateCount.toNat

/-- What a register reads as after reset (R22, R301). -/
def resetValue (q : QFormat) : Reg → Word
  | .id => 0x4A4C5201#32
  | .param => 0x00100700#32 + BitVec.ofNat 32 q.frac
  | .marchN => 16#32
  | .shifts => 0x00006767#32
  | .faultColor => 0x0000F81F#32
  | _ => 0#32

/-- A host access in the window: its offset from BLOCK_BASE is below 256 (R22), modulo 2^32 (the model's
choice, log 29). -/
def inWindow (s : State) (addr : Word) : Prop := (addr - s.build.blockBase).toNat < 256

end Sys2Proof.Claims

open Sys2Proof Sys2Proof.Machine Sys2Proof.Claims

/-! ### Encoding -/

/-- R103: the twelve command words of the opcode map, written out bit by bit, and one reserved opcode and
one set reserved bit (R104). -/
def Obligations.OpcodeMapWordsDecode : Prop :=
  decode 0b00000000000000000000000000000000#32 = .ok .nop
  ∧ decode 0b00000000000000000000000000000001#32 = .ok .cossin
  ∧ decode 0b00000000000000000000000000000010#32 = .ok .qexp
  ∧ decode 0b00000000000000000000000000000011#32 = .ok .isqrt
  ∧ decode 0b00000000000000000000000000000100#32 = .ok .rot2d
  ∧ decode 0b00000000000000000000000000000101#32 = .ok .packyz
  ∧ decode 0b00000000000000000000000000000110#32 = .ok .lutidx
  ∧ decode 0b00000000000000000000000000000111#32 = .ok .lutfetch
  ∧ decode 0b00000000000000000000000000001000#32 = .ok .lutsample
  ∧ decode 0b00000000000000000000000000001001#32 = .ok .march
  ∧ decode 0b00000000000000000000000000001010#32 = .ok .framepre
  ∧ decode 0b00000000000000000000000000001011#32 = .ok .pixel
  ∧ decode 0b00000000000000000000000000001100#32 = .error .reservedOpcode
  ∧ decode 0b00000000000000000000000100000001#32 = .error .reservedBits

/-- Every command's encoding decodes to it (R100, R103). That it does so as four bytes, the least
significant first, with bytes after them, and in the opcode table's numbering, rests on the byte layout the
model gives a command word: the model's choice, from outside the spec (log 28). -/
def Obligations.DecodeEncodeAgree : Prop :=
  ∀ i : Instr, i.wellFormed = true → decode (encode i) = .ok i
    ∧ (∀ rest, decodeBytes (wordBytes (encode i) ++ rest) = .ok (i, rest))
    ∧ decodeTableWord 32 (encode i).toNat = some i

/-- R104, R105: every word is exactly one command, the one whose opcode it equals, or illegal: some RSVD
bit is set or the opcode is above 0x0B. -/
def Obligations.EveryWordIsOneCommandOrIllegal : Prop :=
  (∀ (w : Word) (i : Instr), decode w = .ok i ↔ w = encode i)
  ∧ ∀ w : Word, (∃ e, decode w = .error e) ↔ (w.toNat / 256 ≠ 0 ∨ 0x0B < w.toNat % 256)

/-! ### The step model and the command engine -/

/-- The CMD agent's turn runs the latched command on the state with that turn taken from the schedule
(R256; the schedule is the model's own, log 1); a command placed by `withFetchWord` runs in the very next
step (the model's choice, log 19). -/
def Obligations.StepRunsTheLatchedCommand : Prop :=
  (∀ (s : State) (l : Latch) (rest : List Turn), s.sched = .cmd :: rest → s.latch = some l →
    step s = exec l.cmd { s with sched := rest })
  ∧ ∀ (s : State) (w : Nat) (i : Instr), decodeTableWord 32 w = some i →
    step (s.withFetchWord 32 w) = exec i { s with latch := some (Latch.capture i s) }

/-- R254: the four outcomes of a CMD write, in their order, each with nothing else changed. That an accepted
command latches the whole configuration block, PIXFMT and the FRAME registers, whichever command it is, is
the model's choice (log 10). -/
def Obligations.CmdWriteOutcomes : Prop :=
  ∀ (s : State) (w : Word),
    (s.latch ≠ none → s.writeReg .cmd w = { s with flags := { s.flags with cmdovr := true } })
    ∧ (s.latch = none → s.sfc.phase = .pre ∨ s.sfc.phase = .active →
        s.writeReg .cmd w = { s with err := .conflict, flags := { s.flags with cmddone := true } })
    ∧ (s.latch = none → s.sfc.phase = .off ∨ s.sfc.phase = .wait →
        (w.toNat / 256 ≠ 0 ∨ 0x0B < w.toNat % 256) →
        s.writeReg .cmd w = { s with err := .illegal, flags := { s.flags with cmddone := true } })
    ∧ ∀ i, s.latch = none → s.sfc.phase = .off ∨ s.sfc.phase = .wait → w = encode i →
        s.writeReg .cmd w = { s with
          latch := some ⟨i, s.opa, s.opb, s.opc, s.opd, s.ctrl.pixfmt, s.cfg, s.frameCos, s.frameSin, s.frameZoff⟩ }

/-- R255: NOP completes with ERR = OK and CMDDONE = 1 and changes nothing else. -/
def Obligations.NopOnlyCompletes : Prop :=
  decode 0x00000000#32 = .ok .nop ∧ ∀ s : State, exec .nop s = .next (ended s .ok s.draws)

/-- R271 and R256, for every command: memory is unchanged, and so are the operand and configuration
registers, the frame controller, the counters and everything outside the block; BUSY clears, CMDDONE
sets, OVF is sticky and the other flags stay; ERR is OK, DOMAIN or BUSERR, and on an error no result
register is written. -/
def Obligations.CommandFrame : Prop :=
  ∀ (i : Instr) (s : State), ∃ t : State, exec i s = .next t
    ∧ t = { s with
        latch := none, err := t.err, draws := t.draws
        flags := { s.flags with cmddone := true, ovf := t.flags.ovf }
        res0 := t.res0, res1 := t.res1, accR := t.accR, accG := t.accG, accB := t.accB
        frameCos := t.frameCos, frameSin := t.frameSin, frameZoff := t.frameZoff }
    ∧ (s.flags.ovf = true → t.flags.ovf = true)
    ∧ (t.err = .ok ∨ t.err = .domain ∨ t.err = .buserr)
    ∧ (t.err ≠ .ok → t.res0 = s.res0 ∧ t.res1 = s.res1 ∧ t.accR = s.accR ∧ t.accG = s.accG
        ∧ t.accB = s.accB ∧ t.frameCos = s.frameCos ∧ t.frameSin = s.frameSin ∧ t.frameZoff = s.frameZoff)

/-- R306, R58: a host write to any register while a command is BUSY changes neither its results nor its
error, whatever the command, the register and the value. -/
def Obligations.RunningCommandIgnoresRegisterWrites : Prop :=
  ∀ (s : State) (l : Latch) (r : Reg) (v : Word), s.latch = some l →
    ∃ t t' : State, exec l.cmd s = .next t ∧ exec l.cmd (s.writeReg r v) = .next t'
      ∧ t'.err = t.err ∧ t'.res0 = t.res0 ∧ t'.res1 = t.res1
      ∧ t'.accR = t.accR ∧ t'.accG = t.accG ∧ t'.accB = t.accB
      ∧ t'.frameCos = t.frameCos ∧ t'.frameSin = t.frameSin ∧ t'.frameZoff = t.frameZoff
      ∧ t'.draws = t.draws

/-! ### FXM -/

/-- R133: COSSIN on every theta. -/
def Obligations.CossinGivesReflectedQuadratic : Prop :=
  decode 0x00000001#32 = .ok .cossin ∧ ∀ s : State,
    let th := (s.running .cossin).a.toInt
    exec .cossin s = .next (
      if th < 0 ∨ 4 * one s.build.q ≤ th then ended s .domain s.draws
      else { ended s .ok s.draws with
        res0 := BitVec.ofInt 32 (cosSin s.build.q th).1
        res1 := BitVec.ofInt 32 (cosSin s.build.q th).2 })

/-- R134, first half: for every legal theta, ONE² ≤ cos² + sin² ≤ ONE² + E(Q). -/
def Obligations.CossinNormIsBounded : Prop :=
  ∀ (q : QFormat) (th : Int), 0 ≤ th → th < 4 * one q →
    ∃ c s : Word, cossin q th = some (c, s)
      ∧ one q ^ 2 ≤ c.toInt ^ 2 + s.toInt ^ 2 ∧ c.toInt ^ 2 + s.toInt ^ 2 ≤ one q ^ 2 + normExcess q

/-- R136: QEXP on every x, by range reduction. -/
def Obligations.QexpByRangeReduction : Prop :=
  decode 0x00000002#32 = .ok .qexp ∧ ∀ s : State,
    let x := (s.running .qexp).a.toInt
    exec .qexp s = .next (
      if x < 0 then ended s .domain s.draws
      else { ended s .ok s.draws with res0 := BitVec.ofNat 32 (expValue s.build.q x.toNat) })

/-- R137, first two properties: QEXP never decreases, and gives MAX exactly from T(Q) on. -/
def Obligations.QexpIsMonotoneAndSaturatesAtThreshold : Prop :=
  ∀ (q : QFormat) (x : Nat),
    qexp q x ≤ qexp q (x + 1) ∧ (qexp q x = 2 ^ 31 - 1 ↔ expThreshold q ≤ x)

/-- R135: the ladder constants are the nearest integers to ln 2 · 2^Q and ln(1 + 2^−k) · 2^Q, one for
each k from 1 to Q, and MAX is 2^31 − 1. -/
def Obligations.QexpConstantsAreNearest : Prop :=
  qexpMax = 2 ^ 31 - 1 ∧ ∀ q : QFormat,
    |(qexpLn2 q : ℝ) - Real.log 2 * 2 ^ q.frac| < 1 / 2
    ∧ (qexpLadder q).length = q.frac
    ∧ ∀ k, (h : k < (qexpLadder q).length) →
        |(((qexpLadder q)[k] : ℕ) : ℝ) - Real.log (1 + 1 / 2 ^ (k + 1)) * 2 ^ q.frac| < 1 / 2

/-- R138: ISQRT gives floor(√n), DOMAIN for n < 0. -/
def Obligations.IsqrtIsFloorRoot : Prop :=
  decode 0x00000003#32 = .ok .isqrt ∧ ∀ s : State,
    let n := (s.running .isqrt).a.toInt
    exec .isqrt s = .next (
      if n < 0 then ended s .domain s.draws
      else { ended s .ok s.draws with res0 := BitVec.ofNat 32 (Nat.sqrt n.toNat) })

/-- R140: ROT2D on every operand, with OVF set exactly when one of the six intermediates leaves i32. -/
def Obligations.Rot2dRotatesAndChecks : Prop :=
  decode 0x00000004#32 = .ok .rot2d ∧ ∀ s : State,
    let l := s.running .rot2d
    let x := l.a.toInt
    let y := l.b.toInt
    let c := l.c.toInt
    let k := l.d.toInt
    ∃ ovf : Bool, (ovf = true ↔ s.flags.ovf = true ∨ anyOutside (rotChecked x y c k))
      ∧ exec .rot2d s = .next { ended s .ok s.draws with
          flags := { s.flags with cmddone := true, ovf := ovf }
          res0 := rotX s.build.q x y c k
          res1 := rotY s.build.q x y c k }

/-! ### VLX -/

/-- R163: the YZ word is y·2^16 + z modulo 2^32, for every y and z. -/
def Obligations.PackyzPacksModulo : Prop :=
  decode 0x00000005#32 = .ok .packyz ∧ ∀ s : State, ∃ r : Word,
    (r.toNat : Int) = ((s.running .packyz).a.toInt * 2 ^ 16 + (s.running .packyz).b.toInt) % 2 ^ 32
    ∧ exec .packyz s = .next { ended s .ok s.draws with res0 := r }

/-- R165: LUTIDX gives the index of the three cells, below 2^21, for every pair of words. -/
def Obligations.LutidxCombinesCells : Prop :=
  decode 0x00000006#32 = .ok .lutidx ∧ ∀ s : State, ∃ r : Word,
    r.toNat = indexOf s.build.q (s.running .lutidx).a (s.running .lutidx).b ∧ r.toNat < 2 ^ 21
    ∧ exec .lutidx s = .next { ended s .ok s.draws with res0 := r }

/-- R164, R165: the three 7-bit fields of the index LUTIDX computes are the bits [Q:Q−6] of the X word and
of the y and z fields of the YZ word with bit Q inverted, and nothing stands above them; and for every three
integers, the first as the X word modulo 2^32 and the others as the y and z fields of the YZ word modulo
2^16 (the fields themselves: no borrow of a negative z is taken from the y field here), each 7-bit field is
the cell of its integer: the one of the 128 cells that holds the integer folded into [−ONE, ONE), cell i
holding −1 + i/64 up to −1 + (i + 1)/64. -/
def Obligations.CellIsHighBitsInverted : Prop :=
  (∀ (q : QFormat) (x yz : Word),
    (lutIdx q x yz).extractLsb' 14 7 = x.extractLsb' (q.frac - 6) 7 ^^^ 0x40#7
    ∧ (lutIdx q x yz).extractLsb' 7 7 = yz.extractLsb' (q.frac + 10) 7 ^^^ 0x40#7
    ∧ (lutIdx q x yz).extractLsb' 0 7 = yz.extractLsb' (q.frac - 6) 7 ^^^ 0x40#7
    ∧ (lutIdx q x yz).extractLsb' 21 11 = 0#11)
  ∧ ∀ (q : QFormat) (cx cy cz : Int),
    let i := lutIdx q (BitVec.ofInt 32 cx) (BitVec.ofInt 16 cy ++ BitVec.ofInt 16 cz)
    inCell q cx (i.extractLsb' 14 7).toNat ∧ inCell q cy (i.extractLsb' 7 7).toNat
    ∧ inCell q cz (i.extractLsb' 0 7).toNat

/-- R169: every index is below 2^21, distinct cell triples have distinct indices, and every number below
2^21 is some position's index. -/
def Obligations.IndexPackingIsBijective : Prop :=
  ∀ q : QFormat,
    (∀ x yz : Word, (lutIdx q x yz).toNat < 2 ^ 21)
    ∧ (∀ x yz x' yz' : Word, lutIdx q x yz = lutIdx q x' yz' →
      cell q x.toInt = cell q x'.toInt
      ∧ cell q (yz.extractLsb' 16 16).toInt = cell q (yz'.extractLsb' 16 16).toInt
      ∧ cell q (yz.extractLsb' 0 16).toInt = cell q (yz'.extractLsb' 0 16).toInt)
    ∧ ∀ n, n < 2 ^ 21 → ∃ x yz : Word, (lutIdx q x yz).toNat = n

/-- R167: LUTFETCH: DOMAIN before BUSERR, else the entry as memory may give it, and no other effect. -/
def Obligations.LutfetchReadsTheEntry : Prop :=
  decode 0x00000007#32 = .ok .lutfetch ∧ ∀ s : State,
    let l := s.running .lutfetch
    let a := tableAddr l.cfg l.a.toNat
    (2 ^ 21 ≤ l.a.toNat → exec .lutfetch s = .next (ended s .domain s.draws))
    ∧ (l.a.toNat < 2 ^ 21 → Build.busOk s.build a .word .read = false →
        exec .lutfetch s = .next (ended s .buserr s.draws))
    ∧ (l.a.toNat < 2 ^ 21 → Build.busOk s.build a .word .read = true →
        ∃ e n, mayRead s a .word e ∧ exec .lutfetch s = .next { ended s .ok n with res0 := e })

/-- R168: LUTSAMPLE: the entry at the index of the position, and the index; BUSERR writes neither. -/
def Obligations.LutsampleReadsThePosition : Prop :=
  decode 0x00000008#32 = .ok .lutsample ∧ ∀ s : State,
    let l := s.running .lutsample
    let i := indexOf s.build.q l.a l.b
    let a := tableAddr l.cfg i
    (Build.busOk s.build a .word .read = false → exec .lutsample s = .next (ended s .buserr s.draws))
    ∧ (Build.busOk s.build a .word .read = true →
        ∃ e n, mayRead s a .word e
          ∧ exec .lutsample s = .next { ended s .ok n with res0 := e, res1 := BitVec.ofNat 32 i })

/-! ### RMU -/

/-- R184 with R182, R185 and R186: MARCH ends as the loop says, from every start, direction, N, SHIFTS
and pixel format, or with BUSERR and no result. -/
def Obligations.MarchFollowsTheLoop : Prop :=
  decode 0x00000009#32 = .ok .march ∧ ∀ s : State,
    let l := s.running .march
    let ray : Ray := ⟨l.a, l.b, l.c, l.d⟩
    ∃ n, (∃ o, rayEnds s l.cfg ray o ∧ exec .march s = .next (endedWithPixel s l.cfg l.pixfmt o n))
      ∨ (rayFails s l.cfg ray ∧ exec .march s = .next (ended s .buserr n))

/-- R187, R183: a ray that ends made at most N fetches, and each accumulator is at most 255·N, below
2^16. -/
def Obligations.MarchIsBoundedByN : Prop :=
  ∀ (s : State) (c : Cfg) (ray : Ray) (n : Nat) (o : MarchOut), (march s c ray n).1 = some o →
    o.fetches ≤ c.marchN.toNat
    ∧ o.ar ≤ 255 * c.marchN.toNat ∧ o.ag ≤ 255 * c.marchN.toNat ∧ o.ab ≤ 255 * c.marchN.toNat
    ∧ 255 * c.marchN.toNat < 2 ^ 16
    ∧ (o.hit = false → o.fetches = c.marchN.toNat)

/-- R188: when the first entry of a ray is a hit, the ray makes one fetch and ends with the entry's
colour times N. -/
def Obligations.FirstHitGivesColourTimesN : Prop :=
  ∀ (s : State) (c : Cfg) (ray : Ray) (n m : Nat) (e : Word), 0 < c.marchN.toNat →
    s.fetchEntry c n (lutIdx s.build.q ray.x ray.yz) = (some e, m) → entryD e = 0 →
    march s c ray n =
      (some ⟨entryR e * c.marchN.toNat, entryG e * c.marchN.toNat, entryB e * c.marchN.toNat, 1, true⟩, m)

/-! ### Frame constants and pixels as commands -/

/-- R203, R200: FRAMEPRE on every counter and step; DOMAIN writes no register. -/
def Obligations.FramepreComputesConstants : Prop :=
  decode 0x0000000A#32 = .ok .framepre ∧ ∀ s : State,
    let c := (s.running .framepre).cfg
    let th : Int := (c.rotFrame.toNat : Int) * c.rotStep.toNat
    exec .framepre s = .next (
      if 4 * one s.build.q ≤ th then ended s .domain s.draws
      else { ended s .ok s.draws with
        res0 := BitVec.ofInt 32 (cosSin s.build.q th).1
        res1 := BitVec.ofInt 32 (cosSin s.build.q th).2
        frameCos := BitVec.ofInt 32 (cosSin s.build.q th).1
        frameSin := BitVec.ofInt 32 (cosSin s.build.q th).2
        frameZoff := c.transFrame.setWidth 32 * c.transStep })

/-- R204 with R201: PIXEL marches the ray of its pixel; OVF is set exactly when RAYGEN reports it, also
when the march then fails. -/
def Obligations.PixelMarchesItsRay : Prop :=
  decode 0x0000000B#32 = .ok .pixel ∧ ∀ s : State,
    let l := s.running .pixel
    let v : View := ⟨l.cfg, l.pixfmt, l.frameCos, l.frameSin, l.frameZoff⟩
    let x := l.a.toNat % 65536
    let y := l.a.toNat / 65536
    let ray := rayOf s.build.q v x y
    ∃ (n : Nat) (ovf : Bool), (ovf = true ↔ s.flags.ovf = true ∨ rayOverflows v x y)
      ∧ ((∃ o, rayEnds s l.cfg ray o ∧ exec .pixel s = .next
            { endedWithPixel s l.cfg l.pixfmt o n with flags := { s.flags with cmddone := true, ovf := ovf } })
        ∨ (rayFails s l.cfg ray ∧ exec .pixel s = .next
            { ended s .buserr n with flags := { s.flags with cmddone := true, ovf := ovf } }))

/-! ### The register port -/

/-- R252, R23: a read-write register reads back its writable bits and reserved bits read 0; a read-only
register ignores writes. A write to a read-write register other than CTRL (whose write has a claim of its
own) changes no other register, and nothing outside IRQ_EN, the operands and the configuration. -/
def Obligations.RegistersReadBackWritableBits : Prop :=
  ∀ (s : State) (r : Reg) (v : Word),
    (∀ m, writableBits r = some m → (s.writeReg r v).readReg r = v &&& m)
    ∧ (readOnly r = true → s.writeReg r v = s)
    ∧ (∀ m, writableBits r = some m → r ≠ .ctrl →
        let t := s.writeReg r v
        (∀ r', r' ≠ r → t.readReg r' = s.readReg r')
        ∧ t = { s with irqEn := t.irqEn, opa := t.opa, opb := t.opb, opc := t.opc, opd := t.opd, cfg := t.cfg })

/-- R57: a reserved offset reads 0 and ignores writes. (A window that runs past 2^32 − 1 goes on at 0: the
model's choice, log 29.) -/
def Obligations.ReservedOffsetsReadZero : Prop :=
  ∀ (s : State) (off v : Word),
    off = 0x03C#32 ∨ (0x0B4 ≤ off.toNat ∧ off.toNat ≤ 0x0FC ∧ off.toNat % 4 = 0) →
    s.hostRead (s.build.blockBase + off) .word = { s with port := .data 0#32 }
    ∧ s.hostWrite (s.build.blockBase + off) .word v = { s with port := .done }

/-- R250: a narrow or misaligned access to the window gets an error response and changes no JRB state. (A
window that runs past 2^32 − 1 goes on at 0: the model's choice, log 29.) -/
def Obligations.NarrowOrMisalignedAccessFails : Prop :=
  ∀ (s : State) (addr v : Word) (w : Width), inWindow s addr →
    (w ≠ .word ∨ (addr - s.build.blockBase).toNat % 4 ≠ 0) →
    s.hostRead addr w = { s with port := .error } ∧ s.hostWrite addr w v = { s with port := .error }

/-- R251, R250, R252: a 32-bit host read at a register's offset gives the register's value, which is the
state it names, field by field, and has no side effect; CMD reads 0; a 32-bit host write there is that
register's write. (A window that runs past 2^32 − 1 goes on at 0: the model's choice, log 29.) -/
def Obligations.ReadsHaveNoSideEffect : Prop :=
  ∀ (s : State) (r : Reg) (v : Word),
    s.hostRead (s.build.blockBase + r.offset) .word = { s with port := .data (s.readReg r) }
    ∧ (s.readReg r).toNat = registerValue s r
    ∧ s.hostWrite (s.build.blockBase + r.offset) .word v = { s.writeReg r v with port := .done }

/-- R253: a STATUS write clears exactly the W1C bits that are 1 in it, and changes nothing else. -/
def Obligations.StatusWriteClearsOnes : Prop :=
  ∀ (s : State) (w : Word),
    s.writeReg .status w = { s with flags := (s.writeReg .status w).flags }
    ∧ (s.writeReg .status w).statusWord = s.statusWord &&& ~~~(w &&& 0x00009C0E#32)

/-- R27, R28, R32 to R34: the fields of STATUS as read, and its reserved bits. -/
def Obligations.StatusFieldsStandWhereTheRuleSays : Prop :=
  ∀ s : State,
    s.statusWord.getLsbD 0 = s.latch.isSome
    ∧ s.statusWord.getLsbD 1 = s.flags.cmdovr ∧ s.statusWord.getLsbD 2 = s.flags.ovf
    ∧ s.statusWord.getLsbD 3 = s.flags.cmddone ∧ s.statusWord.getLsbD 10 = s.flags.done
    ∧ s.statusWord.getLsbD 11 = s.flags.late ∧ s.statusWord.getLsbD 12 = s.flags.sfcerr
    ∧ s.statusWord.getLsbD 15 = s.flags.fstart
    ∧ s.statusWord.extractLsb' 4 4 = (match s.err with
        | .ok => 0#4 | .illegal => 1#4 | .domain => 2#4 | .conflict => 3#4 | .buserr => 4#4)
    ∧ s.statusWord.extractLsb' 8 2 = (match s.sfc.phase with
        | .off => 0#2 | .wait => 1#2 | .pre => 2#2 | .active => 3#2)
    ∧ s.statusWord.extractLsb' 13 2 = (match s.cause with
        | .none => 0#2 | .domain => 1#2 | .config => 2#2 | .buserr => 3#2)
    ∧ s.statusWord.extractLsb' 16 16 = 0#16

/-- R258, R26: what a CTRL write does: the mode bits at once, the phase only between OFF and WAIT. -/
def Obligations.CtrlWriteMovesOffAndWaitOnly : Prop :=
  ∀ (s : State) (v : Word),
    let running := s.sfc.phase = .pre ∨ s.sfc.phase = .active
    s.writeReg .ctrl v = { s with
      ctrl := ⟨v.getLsbD 0, v.getLsbD 1, v.getLsbD 2, if v.getLsbD 3 then .l8 else .rgb565⟩
      sfc := { s.sfc with
        phase := if running then s.sfc.phase else if v.getLsbD 0 then .wait else .off } }

/-- R274: IRQ is high exactly when some flag is set in STATUS and enabled in IRQ_EN. -/
def Obligations.IrqIsAnEnabledFlag : Prop :=
  ∀ s : State, s.irq = true ↔
    ∃ k ∈ [1, 2, 3, 10, 11, 12, 15], (s.readReg .status).getLsbD k = true ∧ (s.readReg .irqEn).getLsbD k = true

/-- R300, R301: the reset input gives every register its reset value, empties the latch, stops the SFC
and lowers IRQ, and changes no platform memory, whatever the state; power-on gives the same values. -/
def Obligations.ResetGivesResetValues : Prop :=
  ∀ s : State, takeTurn .reset s = .next s.resetInput
    ∧ (∀ r, s.resetInput.readReg r = resetValue s.build.q r)
    ∧ s.resetInput.latch = none ∧ s.resetInput.sfc.phase = .off ∧ s.resetInput.sfc.lateLatch = false
    ∧ s.resetInput.irq = false ∧ s.resetInput.mem = s.mem ∧ s.resetInput.build = s.build
    ∧ (∀ r, (State.resetOf s.build).readReg r = resetValue s.build.q r)
    ∧ (State.resetOf s.build).latch = none ∧ (State.resetOf s.build).sfc.phase = .off
    ∧ (State.resetOf s.build).sfc.lateLatch = false ∧ (State.resetOf s.build).irq = false

/-- R111: POLL reads STATUS again until BUSY reads 0, and only then is done (one read a turn, log 18; a
window that runs past 2^32 − 1 goes on at 0, log 29: the model's choices). -/
def Obligations.PollRepeatsUntilNotBusy : Prop :=
  ∀ (s : State) (rest : List HostPrim), s.program = expand .poll ++ rest →
    takeTurn .hostProgram s = .next { s with
      port := .data s.statusWord
      program := if s.latch = none then rest else s.program }

/-! ### Platform memory -/

/-- R72, R81: after an answered write of the master port, every byte of memory is the written one inside
the access and the old one outside it; a read of the same place then gives the bytes back. -/
def Obligations.BusWriteStoresItsBytesOnly : Prop :=
  ∀ (s : State) (a v : Word) (w : Width), Build.busOk s.build a w .write = true →
    ∃ m, stored s.mem m a w v ∧ s.busWrite a w v = ({ s with mem := m }, true)
      ∧ ∀ n, Build.busOk s.build a w .read = true →
          (∀ k, k < w.bytes → s.pendingAt (a + BitVec.ofNat 32 k) = []) →
          ({ s with mem := m } : State).busRead n a w = (some (BitVec.ofNat 32 (v.toNat % 2 ^ (8 * w.bytes))), n)

/-- R77, U3: a write with an error response leaves each of its bytes old or new, and every other byte
as it was (byte by byte: the model's choice, log 8). -/
def Obligations.FailedWriteLeavesOldOrNewBytes : Prop :=
  ∀ (s : State) (a v : Word) (w : Width), Build.busOk s.build a w .write = false →
    ∃ m, torn s.mem m a w v ∧ s.busWrite a w v = ({ s with mem := m, draws := s.draws + w.bytes }, false)

/-- R82, R84: a host memory write waits beside memory, where a JRB read may already see it, and once
published with nothing contested it is what memory holds (pending bytes, the window's addresses and host
accesses past 2^32 − 1 are the model's own, log 6, log 7, log 22, log 29). -/
def Obligations.PublishedHostWriteIsVisible : Prop :=
  ∀ (s : State) (a v : Word) (w : Width), ¬ inWindow s a → s.latch = none → s.sfc.phase = .off →
    ∃ t u : State, takeTurn (.hostWrite a w v) s = .next t ∧ takeTurn .hostPublish t = .next u
      ∧ t.mem = s.mem ∧ u.pending = []
      ∧ (∀ k, k < w.bytes → t.pendingAt (a + BitVec.ofNat 32 k)
          = s.pendingAt (a + BitVec.ofNat 32 k) ++ [byteOf v k])
      ∧ ∀ k, k < w.bytes → u.visibleByte (a + BitVec.ofNat 32 k) = byteOf v k

/-! ### The frame controller -/

/-- R206, R210, R205: what a TICK does in each phase; what the display's other turns do: LINE rises by 1 up
to 65535, and a scan-out changes nothing; and between two TICKs (and resets) no turn makes LINE fall. -/
def Obligations.TickByPhase : Prop :=
  ∀ s : State, takeTurn .tick s = .next (match s.sfc.phase with
    | .off => { s with line := 0#16 }
    | .wait => { s with
        line := 0#16, flags := { s.flags with fstart := true }
        sfc := { s.sfc with phase := .pre, lateLatch := false } }
    | .pre => { s with line := 0#16, sfc := { s.sfc with lateLatch := true } }
    | .active => { s with line := 0#16, sfc := { s.sfc with lateLatch := true } })
    ∧ takeTurn .lineUp s = .next { s with line := BitVec.ofNat 16 (min (s.line.toNat + 1) 65535) }
    ∧ takeTurn .scanOut s = .next s
    ∧ ∀ (u : Turn) (t : State), takeTurn u s = .next t → u ≠ .tick → u ≠ .reset → s.line.toNat ≤ t.line.toNat

/-- R212: when a snapshot's configuration is legal. -/
def Obligations.ConfigOkAsTheRuleLists : Prop :=
  ∀ sn : Snap,
    let w := sn.cfg.fbW.toNat
    let h := sn.cfg.fbH.toNat
    let bpp := if sn.pixfmt = .rgb565 then 2 else 1
    sn.configOk = true ↔ ¬ (w = 0 ∨ h = 0
      ∨ (sn.pixfmt = .rgb565 ∧ sn.cfg.fbBase.toNat % 2 = 1)
      ∨ (sn.pixfmt = .rgb565 ∧ sn.cfg.fbStride.toNat % 2 = 1)
      ∨ (2 ≤ h ∧ sn.cfg.fbStride.toNat < w * bpp)
      ∨ (sn.checker = true ∧ (w < 2 ∨ h < 2))
      ∨ (sn.checker = true ∧ sn.mirror = true ∧ h % 2 = 0 ∧ w % 2 = 1))

/-- R211, R276, R278: the PRE step: held while BUSY; CONFIG before DOMAIN; else the frame constants, in
the registers and in the SFC, and ACTIVE from the first pixel operation. -/
def Obligations.PreStepStartsTheFrame : Prop :=
  ∀ s : State, s.sfc.phase = .pre →
    let sn : Snap := ⟨s.ctrl.checker, s.ctrl.mirror, s.ctrl.pixfmt, s.cfg⟩
    let s1 : State := { s with sfc := { s.sfc with snap := sn } }
    let th : Int := (s.cfg.rotFrame.toNat : Int) * s.cfg.rotStep.toNat
    let c := BitVec.ofInt 32 (cosSin s.build.q th).1
    let k := BitVec.ofInt 32 (cosSin s.build.q th).2
    let z := s.cfg.transFrame.setWidth 32 * s.cfg.transStep
    takeTurn .sfc s = .next (
      if s.latch ≠ none then s
      else if sn.configOk = false then faulted s1 .config
      else if 4 * one s.build.q ≤ th then faulted s1 .domain
      else { s1 with
        frameCos := c, frameSin := k, frameZoff := z
        sfc := { s1.sfc with phase := .active, fcos := c, fsin := k, zoff := z, cursor := sn.firstCursor } })

/-- R207, R224: a SYNC of row y holds while no TICK came and LINE has not passed VOFF + y; the turn then
changes CUR_POS only (the model's choice, log 11). -/
def Obligations.SyncHoldsUntilLinePasses : Prop :=
  ∀ s : State, s.sfc.phase = .active → s.sfc.cursor.sub = .render ∨ s.sfc.cursor.sub = .mirror →
    s.sfc.lateLatch = false → s.line.toNat ≤ s.sfc.snap.cfg.voff.toNat + s.sfc.cursor.y →
    takeTurn .sfc s = .next { s with curPos := position s.sfc.cursor.y s.sfc.cursor.x }

/-- R215, R202, R201: a rendered pixel whose SYNC is OK: the value of its ray at its address and the
cursor moved on, or SfcFault(BUSERR); OVF as RAYGEN's checks say; nothing else changes. -/
def Obligations.RenderWritesThePixelValue : Prop :=
  ∀ (s : State) (x y : Nat), s.sfc.phase = .active → s.sfc.cursor = ⟨.render, y, x⟩ →
    s.sfc.lateLatch = false → s.sfc.snap.cfg.voff.toNat + y < s.line.toNat →
    let sn := s.sfc.snap
    let v : View := ⟨sn.cfg, sn.pixfmt, s.sfc.fcos, s.sfc.fsin, s.sfc.zoff⟩
    ∃ (t : State) (n : Nat) (ovf : Bool), takeTurn .sfc s = .next t
      ∧ (ovf = true ↔ s.flags.ovf = true ∨ rayOverflows v x y)
      ∧ let s1 : State :=
          { s with curPos := position y x, draws := n, flags := { s.flags with ovf := ovf } }
        ((∃ o, rayEnds s sn.cfg (rayOf s.build.q v x y) o ∧
            pixelWritten s1 x y (pixelOf sn.cfg sn.pixfmt o)
              (fun m => { s1 with
                mem := m
                sfc := { s.sfc with cursor := sn.nextCursor ⟨.render, y, x⟩ } }) t)
          ∨ (rayFails s sn.cfg (rayOf s.build.q v x y) ∧ t = faulted s1 .buserr))

/-- R216, R217: a reconstructed pixel is the floor mean of its four neighbours' final values, read in
order, or SfcFault(BUSERR); nothing else changes. -/
def Obligations.ReconstructionAveragesNeighbours : Prop :=
  ∀ (s : State) (x r : Nat), s.sfc.phase = .active → s.sfc.cursor = ⟨.recon, r + 1, x⟩ →
    let sn := s.sfc.snap
    ∃ (t : State) (n : Nat), takeTurn .sfc s = .next t
      ∧ let s1 : State := { s with draws := n }
        ((∃ a b c d : Word, List.Forall₂ (pixelRead s) (neighbourReads sn x r) [a, b, c, d]
            ∧ pixelWritten s1 x r (mean4 sn.pixfmt a b c d)
              (fun m => { s1 with
                mem := m
                sfc := { s.sfc with cursor := sn.nextCursor ⟨.recon, r + 1, x⟩ } }) t)
          ∨ ((∃ p ∈ neighbourReads sn x r, pixelFails s p) ∧ t = faulted s1 .buserr))

/-- R218: a mirror copy whose SYNC is OK copies pixel (W − 1 − x, H − 1 − y) to (x, y) exactly, or is
SfcFault(BUSERR); nothing else changes. -/
def Obligations.MirrorCopiesTheOppositePixel : Prop :=
  ∀ (s : State) (x y : Nat), s.sfc.phase = .active → s.sfc.cursor = ⟨.mirror, y, x⟩ →
    s.sfc.lateLatch = false → s.sfc.snap.cfg.voff.toNat + y < s.line.toNat →
    let sn := s.sfc.snap
    let src := (sn.cfg.fbW.toNat - 1 - x, sn.cfg.fbH.toNat - 1 - y)
    ∃ (t : State) (n : Nat), takeTurn .sfc s = .next t
      ∧ let s1 : State := { s with curPos := position y x, draws := n }
        ((∃ v : Word, pixelRead s src v ∧
            pixelWritten s1 x y v
              (fun m => { s1 with
                mem := m
                sfc := { s.sfc with cursor := sn.nextCursor ⟨.mirror, y, x⟩ } }) t)
          ∨ (pixelFails s src ∧ t = faulted s1 .buserr))

/-- R207, R220: a SYNC that finds late_latch starts FAULT at its pixel: the turn is the painting of the
row's first unwritten pixel (one step: the model's choice, log 12). -/
def Obligations.LateSyncStartsPainting : Prop :=
  ∀ (s : State) (x y : Nat), s.sfc.phase = .active →
    s.sfc.cursor = ⟨.render, y, x⟩ ∨ s.sfc.cursor = ⟨.mirror, y, x⟩ →
    s.sfc.lateLatch = true → x < s.sfc.snap.cfg.fbW.toNat →
    ∃ x1, x1 < s.sfc.snap.cfg.fbW.toNat ∧ paintedColumn s.sfc.snap x y x1 = true
      ∧ (∀ z, z < x1 → paintedColumn s.sfc.snap x y z = false)
      ∧ takeTurn .sfc s = takeTurn .sfc { s with
          curPos := position y x
          sfc := { s.sfc with cursor := ⟨.paint x, y, x1⟩ } }

/-- R220, R222: painting one pixel of a late row: FAULT_COLOR at its address, then the next unwritten
pixel of the row, or, with the last, LATE, LATE_COUNT, LATE_POS, the counters and the end of the frame. -/
def Obligations.FaultPaintsTheRowAndEndsTheFrame : Prop :=
  ∀ (s : State) (x0 y x : Nat), s.sfc.phase = .active → s.sfc.cursor = ⟨.paint x0, y, x⟩ →
    x < s.sfc.snap.cfg.fbW.toNat →
    let sn := s.sfc.snap
    ∃ t : State, takeTurn .sfc s = .next t ∧
      pixelWritten s x y (sn.cfg.faultColor.setWidth 32)
        (fun m =>
          match (columns sn fun z => decide (x < z) && paintedColumn sn x0 y z).head? with
          | some z => { s with mem := m, sfc := { s.sfc with cursor := ⟨.paint x0, y, z⟩ } }
          | none => { frameEnded s with
              mem := m
              flags := { s.flags with late := true }
              lateCount := s.lateCount + 1#32
              latePos := position y x0 }) t

/-- R221, R222: COMPLETE. -/
def Obligations.CompleteEndsTheFrame : Prop :=
  ∀ s : State, s.sfc.phase = .active → s.sfc.cursor.sub = .finish →
    takeTurn .sfc s = .next { frameEnded s with
      flags := { s.flags with done := true }
      frameCount := s.frameCount + 1#32 }

/-- R214, R213: the cursor of a legal frame goes through exactly the pixel operations of the rule's loops,
in their order, on the pixels of each class as R213 gives them, and then to the end. -/
def Obligations.CursorFollowsTheFrameOrder : Prop :=
  ∀ sn : Snap, sn.configOk = true →
    (∀ k, (h : k < (frameOrder sn).length) → cursorAt sn k = (frameOrder sn)[k])
    ∧ (cursorAt sn (frameOrder sn).length).sub = .finish

/-- R227, R221: with every access answered, LINE past the last row and no TICK, a frame that is about to
start its active phase completes in exactly W·H SFC turns, one for each pixel, and one more. -/
def Obligations.FrameCompletesInBoundedTurns : Prop :=
  ∀ s : State, s.sfc.phase = .active → s.sfc.lateLatch = false → s.sfc.snap.configOk = true →
    s.sfc.cursor = s.sfc.snap.firstCursor → s.build.denied = [] →
    s.sfc.snap.cfg.voff.toNat + s.sfc.snap.cfg.fbH.toNat ≤ s.line.toNat →
    let n := s.sfc.snap.cfg.fbW.toNat * s.sfc.snap.cfg.fbH.toNat
    (frameOrder s.sfc.snap).length = n
    ∧ (∀ k, k ≤ n → (sfcTurns k s).sfc.phase = .active ∧ (sfcTurns k s).frameCount = s.frameCount)
    ∧ (sfcTurns (n + 1) s).flags.done = true
    ∧ (sfcTurns (n + 1) s).frameCount = s.frameCount + 1#32
    ∧ (sfcTurns (n + 1) s).lateCount = s.lateCount
    ∧ (sfcTurns (n + 1) s).sfc.phase = if s.ctrl.en then .wait else .off

/-! ### Whole-machine rules and invariants -/

/-- R256, R257: no step stops: from every state the machine has a next state. -/
def Obligations.EveryStepGoesOn : Prop :=
  ∀ s : State, ∃ t : State, step s = .next t

/-- R37: only a turn of the host, or reset, changes an operand register. -/
def Obligations.OnlyTheHostWritesOperands : Prop :=
  ∀ (u : Turn) (s t : State), takeTurn u s = .next t →
    u = .cmd ∨ u = .sfc ∨ u = .lineUp ∨ u = .tick ∨ u = .scanOut ∨ u = .hostPublish →
    t.opa = s.opa ∧ t.opb = s.opb ∧ t.opc = s.opc ∧ t.opd = s.opd

/-- R38: only a command's completion, or reset, changes RES0, RES1, ACC_R, ACC_G or ACC_B. -/
def Obligations.OnlyCommandsWriteResults : Prop :=
  ∀ (u : Turn) (s t : State), takeTurn u s = .next t → u ≠ .cmd → u ≠ .reset →
    t.res0 = s.res0 ∧ t.res1 = s.res1 ∧ t.accR = s.accR ∧ t.accG = s.accG ∧ t.accB = s.accB

/-- R56: FRAME_COUNT and LATE_COUNT change only in an SFC turn, by one, modulo 2^32, together with DONE
or LATE, and at reset. -/
def Obligations.FrameCountersCountEndsOfFrames : Prop :=
  ∀ (u : Turn) (s t : State), takeTurn u s = .next t → u ≠ .reset →
    (t.frameCount = s.frameCount
      ∨ (u = .sfc ∧ s.sfc.phase = .active ∧ s.sfc.cursor.sub = .finish ∧ t.frameCount = s.frameCount + 1#32
          ∧ t.flags.done = true))
    ∧ (t.lateCount = s.lateCount
      ∨ (u = .sfc ∧ s.sfc.phase = .active ∧ t.lateCount = s.lateCount + 1#32 ∧ t.flags.late = true))

/-- R7, R25: no step changes the build: Q, BLOCK_BASE and bus_ok stay, and so do ID and PARAM (the build is
a field of the state: the model's choice, log 3). -/
def Obligations.BuildNeverChanges : Prop :=
  ∀ s t : State, step s = .next t →
    t.build = s.build ∧ t.readReg .id = s.readReg .id ∧ t.readReg .param = s.readReg .param

/-- Every step keeps platform memory in the model's canonical form (log 5). -/
def Obligations.StepKeepsMemoryCanonical : Prop :=
  ∀ s t : State, s.memoryOk = true → step s = .next t → t.memoryOk = true

/-- R208, R209, R206, R210, R308: every step keeps phase and EN in step, late_latch clear outside a frame,
and commands out of the active phase. -/
def Obligations.StepKeepsPhaseRules : Prop :=
  ∀ s t : State, s.enableOk = true ∧ s.exclusiveOk = true ∧ s.lateLatchOk = true → step s = .next t →
    t.enableOk = true ∧ t.exclusiveOk = true ∧ t.lateLatchOk = true

/-- R211 to R214, R220: every step keeps the active phase on a legal snapshot with the cursor on a pixel
its sub-phase works on. -/
def Obligations.StepKeepsCursorInTheFrame : Prop :=
  ∀ s t : State, s.frameOk = true → step s = .next t → t.frameOk = true

/-- The reset state of every build meets every invariant. -/
def Obligations.ResetMeetsEveryInvariant : Prop :=
  ∀ b : Build, (State.resetOf b).memoryOk = true ∧ (State.resetOf b).enableOk = true
    ∧ (State.resetOf b).exclusiveOk = true ∧ (State.resetOf b).lateLatchOk = true
    ∧ (State.resetOf b).frameOk = true
end

