-- ==== Sys2Proof/Laws/Memory.lean ====
section
/-! SUPPORT. Laws of platform memory (20_memory.md R70, R72, R78): read after write, canonical form,
extensionality. -/

namespace Sys2Proof.Machine

/-! ### One byte -/

@[simp] theorem Memory.get_nil (a : Nat) : Memory.get [] a = none := rfl

theorem Memory.get_set (m : Memory) (a b : Nat) (v : Byte) :
    Memory.get (Memory.set m a v) b = if b = a then some v else Memory.get m b := by
  induction m with
  | nil => simp only [Memory.set, Memory.get]
  | cons c m ih =>
    obtain ⟨k, w⟩ := c
    simp only [Memory.set]
    split
    · simp only [Memory.get]
    · split
      · subst_vars
        simp only [Memory.get]
        split <;> rfl
      · simp only [Memory.get, ih]
        split
        · split <;> [omega; rfl]
        · rfl

@[simp] theorem Memory.get_set_same (m : Memory) (a : Nat) (v : Byte) :
    Memory.get (Memory.set m a v) a = some v := by simp [Memory.get_set]

theorem Memory.get_set_other (m : Memory) {a b : Nat} (v : Byte) (h : b ≠ a) :
    Memory.get (Memory.set m a v) b = Memory.get m b := by simp [Memory.get_set, h]

/-! ### Canonical form -/

theorem Memory.wfAbove_mono {lo lo' : Nat} {m : Memory} (h : lo' ≤ lo) (w : Memory.wfAbove lo m = true) :
    Memory.wfAbove lo' m = true := by
  cases m with
  | nil => rfl
  | cons c m =>
    simp only [Memory.wfAbove, Bool.and_eq_true, decide_eq_true_eq] at w ⊢
    exact ⟨⟨by omega, w.1.2⟩, w.2⟩

theorem Memory.wfAbove_set {lo : Nat} {m : Memory} {a : Nat} (v : Byte) (w : Memory.wfAbove lo m = true)
    (hlo : lo ≤ a) (ha : a < 2 ^ 32) : Memory.wfAbove lo (Memory.set m a v) = true := by
  induction m generalizing lo with
  | nil => simp [Memory.set, Memory.wfAbove, hlo]; omega
  | cons c m ih =>
    obtain ⟨k, b⟩ := c
    simp only [Memory.wfAbove, Bool.and_eq_true, decide_eq_true_eq] at w
    obtain ⟨⟨h1, h2⟩, h3⟩ := w
    simp only [Memory.set]
    split
    · simp only [Memory.wfAbove, Bool.and_eq_true, decide_eq_true_eq]
      exact ⟨⟨hlo, ha⟩, ⟨by omega, h2⟩, h3⟩
    · split
      · subst_vars
        simp only [Memory.wfAbove, Bool.and_eq_true, decide_eq_true_eq]
        exact ⟨⟨hlo, ha⟩, h3⟩
      · simp only [Memory.wfAbove, Bool.and_eq_true, decide_eq_true_eq]
        exact ⟨⟨h1, h2⟩, ih h3 (by omega)⟩

/-- A byte write keeps the canonical form. -/
theorem Memory.wf_set {m : Memory} {a : Nat} (v : Byte) (w : Memory.wf m = true) (ha : a < 2 ^ 32) :
    Memory.wf (Memory.set m a v) = true := Memory.wfAbove_set v w (Nat.zero_le _) ha

/-- A multi-byte write keeps the canonical form. -/
theorem Memory.wf_store {m : Memory} (n : Nat) (a v : Word) (w : Memory.wf m = true) :
    Memory.wf (Memory.store m n a v) = true := by
  induction n generalizing m a v with
  | zero => exact w
  | succ n ih => exact ih _ _ (Memory.wf_set _ w a.isLt)

/-- A failed write keeps the canonical form, whichever bytes land. -/
theorem Memory.wf_storeSome {m : Memory} (k n : Nat) (a v : Word) (w : Memory.wf m = true) :
    Memory.wf (Memory.storeSome m k n a v) = true := by
  induction k generalizing m n a v with
  | zero => exact w
  | succ k ih =>
    refine ih _ _ _ ?_
    split
    · exact w
    · exact Memory.wf_set _ w a.isLt

/-- Making host writes visible keeps the canonical form. -/
theorem Memory.wf_setAll {m : Memory} (cs : List Host.Cell) (w : Memory.wf m = true) :
    Memory.wf (Memory.setAll m cs) = true := by
  induction cs generalizing m with
  | nil => exact w
  | cons c cs ih => exact ih (Memory.wf_set _ w (Nat.mod_lt _ (by decide)))

/-- In a memory above `lo`, nothing is written below `lo`. -/
theorem Memory.get_below {lo a : Nat} {m : Memory} (w : Memory.wfAbove lo m = true) (h : a < lo) :
    Memory.get m a = none := by
  induction m generalizing lo with
  | nil => rfl
  | cons c m ih =>
    obtain ⟨k, b⟩ := c
    simp only [Memory.wfAbove, Bool.and_eq_true, decide_eq_true_eq] at w
    have hk : a ≠ k := by omega
    simp only [Memory.get, hk, if_false]
    exact ih w.2 (by omega)

theorem Memory.eq_of_wfAbove {lo : Nat} {m m' : Memory} (w : Memory.wfAbove lo m = true)
    (w' : Memory.wfAbove lo m' = true) (h : ∀ a, Memory.get m a = Memory.get m' a) : m = m' := by
  induction m generalizing lo m' with
  | nil =>
    cases m' with
    | nil => rfl
    | cons c m' =>
      have h0 := h c.1
      simp [Memory.get] at h0
  | cons c m ih =>
    obtain ⟨k, b⟩ := c
    cases m' with
    | nil =>
      have h0 := h k
      simp [Memory.get] at h0
    | cons c' m' =>
      obtain ⟨k', b'⟩ := c'
      simp only [Memory.wfAbove, Bool.and_eq_true, decide_eq_true_eq] at w w'
      have hk : k = k' := by
        rcases Nat.lt_trichotomy k k' with hlt | heq | hlt
        · have h0 := h k
          have hne : k ≠ k' := by omega
          simp only [Memory.get, if_true, hne, if_false] at h0
          rw [Memory.get_below w'.2 (by omega)] at h0
          cases h0
        · exact heq
        · have h0 := h k'
          have hne : k' ≠ k := by omega
          simp only [Memory.get, if_true, hne, if_false] at h0
          rw [Memory.get_below w.2 (by omega)] at h0
          cases h0
      subst hk
      have hb : b = b' := by simpa [Memory.get] using h k
      subst hb
      have ht : m = m' := by
        refine ih w.2 w'.2 fun a => ?_
        by_cases ha : a = k
        · rw [Memory.get_below w.2 (by omega), Memory.get_below w'.2 (by omega)]
        · simpa [Memory.get, ha] using h a
      rw [ht]

/-- Two canonical memories with the same written bytes are the same list. -/
theorem Memory.ext_of_wf {m m' : Memory} (w : Memory.wf m = true) (w' : Memory.wf m' = true)
    (h : ∀ a, Memory.get m a = Memory.get m' a) : m = m' := Memory.eq_of_wfAbove w w' h

/-! ### Several bytes -/

theorem byte_shiftRight (v : Word) (k : Nat) :
    (v >>> 8).extractLsb' (8 * k) 8 = v.extractLsb' (8 * (k + 1)) 8 := by
  apply BitVec.eq_of_getLsbD_eq
  intro i hi
  simp only [BitVec.getLsbD_extractLsb', BitVec.getLsbD_ushiftRight]
  congr 2
  omega

/-- Distance from `a + 1` in terms of the distance from `a`. -/
theorem sub_succ_toNat {a b : Word} (h : b ≠ a) : (b - (a + 1#32)).toNat + 1 = (b - a).toNat := by
  have h1 : (b - a).toNat ≠ 0 := by
    intro h0
    have : b - a = 0#32 := BitVec.eq_of_toNat_eq (by simpa using h0)
    exact h (by simpa using BitVec.sub_eq_iff_eq_add.mp this)
  have h2 : b - (a + 1#32) = (b - a) - 1#32 := by
    apply BitVec.eq_of_toNat_eq
    simp only [BitVec.toNat_sub, BitVec.toNat_add, BitVec.toNat_ofNat]
    omega
  rw [h2, BitVec.toNat_sub]
  have := (b - a).isLt
  simp only [BitVec.toNat_ofNat]
  omega

theorem eq_of_toNat_eq_iff {a b : Word} : b.toNat = a.toNat ↔ b = a :=
  ⟨fun h => BitVec.eq_of_toNat_eq h, fun h => by rw [h]⟩

/-- What a write leaves at every address (R72, R78): its bytes inside it, the old memory outside. -/
theorem Memory.get_store (m : Memory) (n : Nat) (a v b : Word) (hn : n < 2 ^ 32) :
    Memory.get (Memory.store m n a v) b.toNat =
      if (b - a).toNat < n then some (v.extractLsb' (8 * (b - a).toNat) 8) else Memory.get m b.toNat := by
  induction n generalizing m a v with
  | zero => simp [Memory.store]
  | succ n ih =>
    rw [Memory.store, ih _ _ _ (by omega), Memory.get_set]
    by_cases hb : b = a
    · subst hb
      have h0 : (b - (b + 1#32)).toNat = 2 ^ 32 - 1 := by
        have : b - (b + 1#32) = 0#32 - 1#32 := by
          apply BitVec.eq_of_toNat_eq
          simp only [BitVec.toNat_sub, BitVec.toNat_add, BitVec.toNat_ofNat]
          omega
        rw [this]; rfl
      rw [h0]
      rw [if_neg (by omega), if_pos rfl, if_pos (by simp)]
      simp
    · have hs := sub_succ_toNat hb
      have hne : b.toNat ≠ a.toNat := fun h => hb (eq_of_toNat_eq_iff.mp h)
      simp only [hne, if_false]
      by_cases hlt : (b - (a + 1#32)).toNat < n
      · have h2 : (b - a).toNat < n + 1 := by omega
        simp only [hlt, h2, if_true]
        rw [byte_shiftRight, hs]
      · have h2 : ¬ (b - a).toNat < n + 1 := by omega
        simp only [hlt, h2, if_false]

/-- What a failed write leaves at every address (U3): the old byte, or the written one inside it. -/
theorem Memory.get_storeSome (m : Memory) (k n : Nat) (a v b : Word) (hk : k < 2 ^ 32) :
    Memory.get (Memory.storeSome m k n a v) b.toNat = Memory.get m b.toNat
      ∨ ((b - a).toNat < k
        ∧ Memory.get (Memory.storeSome m k n a v) b.toNat = some (v.extractLsb' (8 * (b - a).toNat) 8)) := by
  induction k generalizing m n a v with
  | zero => exact .inl rfl
  | succ k ih =>
    rw [Memory.storeSome]
    by_cases hb : b = a
    · subst hb
      have h0 : ¬ (b - (b + 1#32)).toNat < k := by
        have : b - (b + 1#32) = 0#32 - 1#32 := by
          apply BitVec.eq_of_toNat_eq
          simp only [BitVec.toNat_sub, BitVec.toNat_add, BitVec.toNat_ofNat]
          omega
        rw [this]
        have : (0#32 - 1#32).toNat = 2 ^ 32 - 1 := rfl
        omega
      rcases ih (if Config.freeChoice n % 2 = 0 then m else Memory.set m b.toNat (v.extractLsb' 0 8))
        (n + 1) (b + 1#32) (v >>> 8) (by omega) with h | h
      · rw [h]
        split
        · exact .inl rfl
        · right
          simp
      · exact absurd h.1 h0
    · have hs := sub_succ_toNat hb
      have hne : b.toNat ≠ a.toNat := fun h => hb (eq_of_toNat_eq_iff.mp h)
      have hm : Memory.get (if Config.freeChoice n % 2 = 0 then m
          else Memory.set m a.toNat (v.extractLsb' 0 8)) b.toNat = Memory.get m b.toNat := by
        split
        · rfl
        · exact Memory.get_set_other _ _ hne
      rcases ih (if Config.freeChoice n % 2 = 0 then m else Memory.set m a.toNat (v.extractLsb' 0 8))
        (n + 1) (a + 1#32) (v >>> 8) (by omega) with h | ⟨h1, h2⟩
      · left
        rw [h, hm]
      · right
        exact ⟨by omega, by rw [h2, byte_shiftRight, hs]⟩

/-! ### The host's pending bytes -/

/-- The cells of a host write, at one address: its byte inside the access, nothing outside. -/
theorem writtenCells_at (n : Nat) (a v b : Word) (hn : n ≤ 4) :
    (writtenCells n a v).filterMap (fun c => if c.1 = b.toNat then some c.2 else none) =
      if (b - a).toNat < n then [v.extractLsb' (8 * (b - a).toNat) 8] else [] := by
  induction n generalizing a v with
  | zero => simp [writtenCells]
  | succ n ih =>
    simp only [writtenCells, List.filterMap_cons]
    rw [ih _ _ (by omega)]
    by_cases h : b = a
    · subst h
      have h2 : ¬ (b - (b + 1#32)).toNat < n := by bv_omega
      rw [if_neg h2]
      simp
    · have h1 : ¬ a.toNat = b.toNat := fun e => h (BitVec.eq_of_toNat_eq e.symm)
      have hs := sub_succ_toNat h
      simp only [h1, if_false]
      by_cases hl : (b - (a + 1#32)).toNat < n
      · rw [if_pos hl, if_pos (by omega), byte_shiftRight, hs]
      · rw [if_neg hl, if_neg (by omega)]

/-- What publishing a list of cells leaves at an address: the last cell there, else the old byte (R82). -/
theorem Memory.get_setAll (cs : List Host.Cell) (m : Memory) (a : Nat) :
    Memory.get (Memory.setAll m cs) a =
      ((cs.filterMap fun c => if c.1 % 2 ^ 32 = a then some c.2 else none).getLast?).or (Memory.get m a) := by
  induction cs generalizing m with
  | nil => simp [Memory.setAll]
  | cons c cs ih =>
    simp only [Memory.setAll, ih, List.filterMap_cons, Memory.get_set]
    by_cases h : c.1 % 2 ^ 32 = a
    · rw [if_pos h.symm, if_pos h, List.getLast?_cons]
      cases (cs.filterMap fun c => if c.1 % 2 ^ 32 = a then some c.2 else none).getLast? <;> rfl
    · rw [if_neg (fun e => h e.symm), if_neg h]

end Sys2Proof.Machine
end

