-- ==== Sys2Proof/Laws/Bus.lean ====
section
/-! SUPPORT. Laws of the master port (20_memory.md R72, R77, R81, R82): what a read may deliver, what a
write leaves, and which part of the state each looks at. -/

namespace Sys2Proof

theorem Width.bytes_le (w : Width) : w.bytes ≤ 4 := by cases w <;> decide

theorem Width.bytes_pos (w : Width) : 0 < w.bytes := by cases w <;> decide

theorem Width.pow_bytes_le (w : Width) : 256 ^ w.bytes ≤ 2 ^ 32 := by cases w <;> decide

end Sys2Proof

namespace Sys2Proof.Machine

/-- A byte read delivers the visible byte or a pending one (R82, R84). -/
theorem State.readByte_mem (s : State) (n : Nat) (a : Word) :
    (s.readByte n a).1 ∈ s.visibleByte a :: s.pendingAt a := by
  unfold State.readByte
  split
  · exact List.mem_cons_self
  · next c cs h =>
    rw [h]
    have hlt : Config.freeChoice n % (cs.length + 2) < (s.visibleByte a :: c :: cs).length := by
      simpa using Nat.mod_lt (Config.freeChoice n) (Nat.succ_pos (cs.length + 1))
    rw [List.getD_eq_getElem _ _ hlt]
    exact List.getElem_mem hlt

/-- Where the host has nothing pending, a byte read is the visible byte and draws nothing. -/
theorem State.readByte_clear (s : State) (n : Nat) {a : Word} (h : s.pendingAt a = []) :
    s.readByte n a = (s.visibleByte a, n) := by
  unfold State.readByte
  rw [h]

theorem State.readBytes_lt (s : State) (k n : Nat) (a : Word) : (s.readBytes k n a).1 < 256 ^ k := by
  induction k generalizing n a with
  | zero => simp [State.readBytes]
  | succ k ih =>
    have h1 := (s.readByte n a).1.isLt
    have h2 := ih (s.readByte n a).2 (a + 1#32)
    simp only [State.readBytes]
    rw [Nat.pow_succ]
    omega

/-- Byte `j` of a read is a byte the port may deliver at that address. -/
theorem State.readBytes_byte (s : State) (k n j : Nat) (a : Word) (h : j < k) :
    BitVec.ofNat 8 ((s.readBytes k n a).1 / 256 ^ j) ∈
      s.visibleByte (a + BitVec.ofNat 32 j) :: s.pendingAt (a + BitVec.ofNat 32 j) := by
  induction k generalizing n a j with
  | zero => omega
  | succ k ih =>
    simp only [State.readBytes]
    cases j with
    | zero =>
      have h0 : BitVec.ofNat 8 (((s.readByte n a).1.toNat
          + 256 * (s.readBytes k (s.readByte n a).2 (a + 1#32)).1) / 256 ^ 0) = (s.readByte n a).1 := by
        apply BitVec.eq_of_toNat_eq
        simp only [pow_zero, Nat.div_one, BitVec.toNat_ofNat]
        have := (s.readByte n a).1.isLt
        omega
      rw [h0, show a + BitVec.ofNat 32 0 = a by simp]
      exact s.readByte_mem n a
    | succ j =>
      have h1 : ((s.readByte n a).1.toNat
          + 256 * (s.readBytes k (s.readByte n a).2 (a + 1#32)).1) / 256 ^ (j + 1)
          = (s.readBytes k (s.readByte n a).2 (a + 1#32)).1 / 256 ^ j := by
        rw [Nat.pow_succ', ← Nat.div_div_eq_div_mul]
        have := (s.readByte n a).1.isLt
        congr 1
        omega
      have h2 : a + BitVec.ofNat 32 (j + 1) = (a + 1#32) + BitVec.ofNat 32 j := by
        rw [Nat.add_comm, BitVec.ofNat_add, BitVec.add_assoc]
      rw [h1, h2]
      exact ih _ _ _ (by omega)

/-- A read where nothing is pending draws nothing and delivers the visible bytes. -/
theorem State.readBytes_clear (s : State) (k n : Nat) (a : Word)
    (h : ∀ j, j < k → s.pendingAt (a + BitVec.ofNat 32 j) = []) :
    (s.readBytes k n a).2 = n := by
  induction k generalizing a with
  | zero => rfl
  | succ k ih =>
    simp only [State.readBytes]
    have h0 : s.pendingAt a = [] := by simpa using h 0 (by omega)
    rw [s.readByte_clear n h0]
    refine ih (a + 1#32) fun j hj => ?_
    have h2 : (a + 1#32) + BitVec.ofNat 32 j = a + BitVec.ofNat 32 (j + 1) := by
      rw [Nat.add_comm, BitVec.ofNat_add, BitVec.add_assoc]
    rw [h2]
    exact h (j + 1) (by omega)

/-- Everything a master-port read can answer (R77): an error response and no draw, or, the platform
willing, a word whose bytes the port may deliver. -/
theorem State.busRead_cases (s : State) (n : Nat) (a : Word) (w : Width) :
    (Build.busOk s.build a w .read = false ∧ s.busRead n a w = (none, n)) ∨
    (Build.busOk s.build a w .read = true ∧ ∃ v m, s.busRead n a w = (some v, m)
      ∧ v.toNat < 256 ^ w.bytes
      ∧ ∀ j, j < w.bytes → v.extractLsb' (8 * j) 8 ∈
          s.visibleByte (a + BitVec.ofNat 32 j) :: s.pendingAt (a + BitVec.ofNat 32 j)) := by
  unfold State.busRead
  by_cases h : Build.busOk s.build a w .read = true
  · right
    refine ⟨h, _, _, if_pos h, ?_, fun j hj => ?_⟩
    · have := s.readBytes_lt w.bytes n a
      simp only [BitVec.toNat_ofNat]
      exact lt_of_le_of_lt (Nat.mod_le _ _) this
    · have hb := s.readBytes_byte w.bytes n j a hj
      have hlt := lt_of_lt_of_le (s.readBytes_lt w.bytes n a) (Width.pow_bytes_le w)
      have he : (BitVec.ofNat 32 (s.readBytes w.bytes n a).1).extractLsb' (8 * j) 8
          = BitVec.ofNat 8 ((s.readBytes w.bytes n a).1 / 256 ^ j) := by
        apply BitVec.eq_of_toNat_eq
        rw [BitVec.extractLsb'_toNat, BitVec.toNat_ofNat, BitVec.toNat_ofNat, Nat.mod_eq_of_lt hlt,
          Nat.shiftRight_eq_div_pow, show (256 : Nat) ^ j = 2 ^ (8 * j) by rw [pow_mul]; norm_num]
      rw [he]
      exact hb
  · left
    rw [Bool.not_eq_true] at h
    exact ⟨h, by simp [h]⟩

/-- Everything a master-port write can do (R72, R77): the bytes stored and nothing drawn, or an error
response with each byte old or new. -/
theorem State.busWrite_cases (s : State) (a : Word) (w : Width) (v : Word) :
    (Build.busOk s.build a w .write = true ∧
      s.busWrite a w v = ({ s with mem := Memory.store s.mem w.bytes a v }, true)) ∨
    (Build.busOk s.build a w .write = false ∧
      s.busWrite a w v = ({ s with
        mem := Memory.storeSome s.mem w.bytes s.draws a v, draws := s.draws + w.bytes }, false)) := by
  unfold State.busWrite
  by_cases h : Build.busOk s.build a w .write = true
  · exact .inl ⟨h, by simp [h]⟩
  · rw [Bool.not_eq_true] at h
    exact .inr ⟨h, by simp [h]⟩

/-! ### What a read depends on -/

/-- A read looks at the build, at memory and at the pending bytes only. -/
theorem State.busRead_congr {s t : State} (hb : t.build = s.build) (hm : t.mem = s.mem)
    (hp : t.pending = s.pending) (n : Nat) (a : Word) (w : Width) : t.busRead n a w = s.busRead n a w := by
  have hB : ∀ n a, t.readByte n a = s.readByte n a := by
    intro n a
    simp only [State.readByte, State.pendingAt, State.visibleByte, hm, hp]
  have hBs : ∀ k n a, t.readBytes k n a = s.readBytes k n a := by
    intro k
    induction k with
    | zero => intro n a; rfl
    | succ k ih => intro n a; simp only [State.readBytes, hB, ih]
  simp only [State.busRead, hb, hBs]

end Sys2Proof.Machine
end

