-- ==== Sys2Proof/Laws/State.lean ====
section
/-! SUPPORT. One lemma per field of State and named update, each true by rfl: what the update leaves and
what it writes. -/

namespace Sys2Proof.Machine

variable (s : State)

/-! ### State.accept -/

@[simp] theorem State.accept_build (i : Instr) : (s.accept i).build = s.build := rfl
@[simp] theorem State.accept_ctrl (i : Instr) : (s.accept i).ctrl = s.ctrl := rfl
@[simp] theorem State.accept_flags (i : Instr) : (s.accept i).flags = s.flags := rfl
@[simp] theorem State.accept_err (i : Instr) : (s.accept i).err = s.err := rfl
@[simp] theorem State.accept_cause (i : Instr) : (s.accept i).cause = s.cause := rfl
@[simp] theorem State.accept_irqEn (i : Instr) : (s.accept i).irqEn = s.irqEn := rfl
@[simp] theorem State.accept_opa (i : Instr) : (s.accept i).opa = s.opa := rfl
@[simp] theorem State.accept_opb (i : Instr) : (s.accept i).opb = s.opb := rfl
@[simp] theorem State.accept_opc (i : Instr) : (s.accept i).opc = s.opc := rfl
@[simp] theorem State.accept_opd (i : Instr) : (s.accept i).opd = s.opd := rfl
@[simp] theorem State.accept_res0 (i : Instr) : (s.accept i).res0 = s.res0 := rfl
@[simp] theorem State.accept_res1 (i : Instr) : (s.accept i).res1 = s.res1 := rfl
@[simp] theorem State.accept_accR (i : Instr) : (s.accept i).accR = s.accR := rfl
@[simp] theorem State.accept_accG (i : Instr) : (s.accept i).accG = s.accG := rfl
@[simp] theorem State.accept_accB (i : Instr) : (s.accept i).accB = s.accB := rfl
@[simp] theorem State.accept_cfg (i : Instr) : (s.accept i).cfg = s.cfg := rfl
@[simp] theorem State.accept_frameCos (i : Instr) : (s.accept i).frameCos = s.frameCos := rfl
@[simp] theorem State.accept_frameSin (i : Instr) : (s.accept i).frameSin = s.frameSin := rfl
@[simp] theorem State.accept_frameZoff (i : Instr) : (s.accept i).frameZoff = s.frameZoff := rfl
@[simp] theorem State.accept_curPos (i : Instr) : (s.accept i).curPos = s.curPos := rfl
@[simp] theorem State.accept_latePos (i : Instr) : (s.accept i).latePos = s.latePos := rfl
@[simp] theorem State.accept_frameCount (i : Instr) : (s.accept i).frameCount = s.frameCount := rfl
@[simp] theorem State.accept_lateCount (i : Instr) : (s.accept i).lateCount = s.lateCount := rfl
@[simp] theorem State.accept_latch (i : Instr) : (s.accept i).latch = some (Latch.capture i s) := rfl
@[simp] theorem State.accept_sfc (i : Instr) : (s.accept i).sfc = s.sfc := rfl
@[simp] theorem State.accept_line (i : Instr) : (s.accept i).line = s.line := rfl
@[simp] theorem State.accept_mem (i : Instr) : (s.accept i).mem = s.mem := rfl
@[simp] theorem State.accept_pending (i : Instr) : (s.accept i).pending = s.pending := rfl
@[simp] theorem State.accept_port (i : Instr) : (s.accept i).port = s.port := rfl
@[simp] theorem State.accept_program (i : Instr) : (s.accept i).program = s.program := rfl
@[simp] theorem State.accept_sched (i : Instr) : (s.accept i).sched = s.sched := rfl
@[simp] theorem State.accept_draws (i : Instr) : (s.accept i).draws = s.draws := rfl

/-! ### State.reject -/

@[simp] theorem State.reject_build (e : ErrCode) : (s.reject e).build = s.build := rfl
@[simp] theorem State.reject_ctrl (e : ErrCode) : (s.reject e).ctrl = s.ctrl := rfl
@[simp] theorem State.reject_flags (e : ErrCode) : (s.reject e).flags = { s.flags with cmddone := true } := rfl
@[simp] theorem State.reject_err (e : ErrCode) : (s.reject e).err = e := rfl
@[simp] theorem State.reject_cause (e : ErrCode) : (s.reject e).cause = s.cause := rfl
@[simp] theorem State.reject_irqEn (e : ErrCode) : (s.reject e).irqEn = s.irqEn := rfl
@[simp] theorem State.reject_opa (e : ErrCode) : (s.reject e).opa = s.opa := rfl
@[simp] theorem State.reject_opb (e : ErrCode) : (s.reject e).opb = s.opb := rfl
@[simp] theorem State.reject_opc (e : ErrCode) : (s.reject e).opc = s.opc := rfl
@[simp] theorem State.reject_opd (e : ErrCode) : (s.reject e).opd = s.opd := rfl
@[simp] theorem State.reject_res0 (e : ErrCode) : (s.reject e).res0 = s.res0 := rfl
@[simp] theorem State.reject_res1 (e : ErrCode) : (s.reject e).res1 = s.res1 := rfl
@[simp] theorem State.reject_accR (e : ErrCode) : (s.reject e).accR = s.accR := rfl
@[simp] theorem State.reject_accG (e : ErrCode) : (s.reject e).accG = s.accG := rfl
@[simp] theorem State.reject_accB (e : ErrCode) : (s.reject e).accB = s.accB := rfl
@[simp] theorem State.reject_cfg (e : ErrCode) : (s.reject e).cfg = s.cfg := rfl
@[simp] theorem State.reject_frameCos (e : ErrCode) : (s.reject e).frameCos = s.frameCos := rfl
@[simp] theorem State.reject_frameSin (e : ErrCode) : (s.reject e).frameSin = s.frameSin := rfl
@[simp] theorem State.reject_frameZoff (e : ErrCode) : (s.reject e).frameZoff = s.frameZoff := rfl
@[simp] theorem State.reject_curPos (e : ErrCode) : (s.reject e).curPos = s.curPos := rfl
@[simp] theorem State.reject_latePos (e : ErrCode) : (s.reject e).latePos = s.latePos := rfl
@[simp] theorem State.reject_frameCount (e : ErrCode) : (s.reject e).frameCount = s.frameCount := rfl
@[simp] theorem State.reject_lateCount (e : ErrCode) : (s.reject e).lateCount = s.lateCount := rfl
@[simp] theorem State.reject_latch (e : ErrCode) : (s.reject e).latch = s.latch := rfl
@[simp] theorem State.reject_sfc (e : ErrCode) : (s.reject e).sfc = s.sfc := rfl
@[simp] theorem State.reject_line (e : ErrCode) : (s.reject e).line = s.line := rfl
@[simp] theorem State.reject_mem (e : ErrCode) : (s.reject e).mem = s.mem := rfl
@[simp] theorem State.reject_pending (e : ErrCode) : (s.reject e).pending = s.pending := rfl
@[simp] theorem State.reject_port (e : ErrCode) : (s.reject e).port = s.port := rfl
@[simp] theorem State.reject_program (e : ErrCode) : (s.reject e).program = s.program := rfl
@[simp] theorem State.reject_sched (e : ErrCode) : (s.reject e).sched = s.sched := rfl
@[simp] theorem State.reject_draws (e : ErrCode) : (s.reject e).draws = s.draws := rfl

/-! ### State.close -/

@[simp] theorem State.close_build (e : ErrCode) (o : Bool) (n : Nat) : (s.close e o n).build = s.build := rfl
@[simp] theorem State.close_ctrl (e : ErrCode) (o : Bool) (n : Nat) : (s.close e o n).ctrl = s.ctrl := rfl
@[simp] theorem State.close_flags (e : ErrCode) (o : Bool) (n : Nat) :
    (s.close e o n).flags = { s.flags with ovf := s.flags.ovf || o, cmddone := true } := rfl
@[simp] theorem State.close_err (e : ErrCode) (o : Bool) (n : Nat) : (s.close e o n).err = e := rfl
@[simp] theorem State.close_cause (e : ErrCode) (o : Bool) (n : Nat) : (s.close e o n).cause = s.cause := rfl
@[simp] theorem State.close_irqEn (e : ErrCode) (o : Bool) (n : Nat) : (s.close e o n).irqEn = s.irqEn := rfl
@[simp] theorem State.close_opa (e : ErrCode) (o : Bool) (n : Nat) : (s.close e o n).opa = s.opa := rfl
@[simp] theorem State.close_opb (e : ErrCode) (o : Bool) (n : Nat) : (s.close e o n).opb = s.opb := rfl
@[simp] theorem State.close_opc (e : ErrCode) (o : Bool) (n : Nat) : (s.close e o n).opc = s.opc := rfl
@[simp] theorem State.close_opd (e : ErrCode) (o : Bool) (n : Nat) : (s.close e o n).opd = s.opd := rfl
@[simp] theorem State.close_res0 (e : ErrCode) (o : Bool) (n : Nat) : (s.close e o n).res0 = s.res0 := rfl
@[simp] theorem State.close_res1 (e : ErrCode) (o : Bool) (n : Nat) : (s.close e o n).res1 = s.res1 := rfl
@[simp] theorem State.close_accR (e : ErrCode) (o : Bool) (n : Nat) : (s.close e o n).accR = s.accR := rfl
@[simp] theorem State.close_accG (e : ErrCode) (o : Bool) (n : Nat) : (s.close e o n).accG = s.accG := rfl
@[simp] theorem State.close_accB (e : ErrCode) (o : Bool) (n : Nat) : (s.close e o n).accB = s.accB := rfl
@[simp] theorem State.close_cfg (e : ErrCode) (o : Bool) (n : Nat) : (s.close e o n).cfg = s.cfg := rfl
@[simp] theorem State.close_frameCos (e : ErrCode) (o : Bool) (n : Nat) : (s.close e o n).frameCos = s.frameCos := rfl
@[simp] theorem State.close_frameSin (e : ErrCode) (o : Bool) (n : Nat) : (s.close e o n).frameSin = s.frameSin := rfl
@[simp] theorem State.close_frameZoff (e : ErrCode) (o : Bool) (n : Nat) :
    (s.close e o n).frameZoff = s.frameZoff := rfl
@[simp] theorem State.close_curPos (e : ErrCode) (o : Bool) (n : Nat) : (s.close e o n).curPos = s.curPos := rfl
@[simp] theorem State.close_latePos (e : ErrCode) (o : Bool) (n : Nat) : (s.close e o n).latePos = s.latePos := rfl
@[simp] theorem State.close_frameCount (e : ErrCode) (o : Bool) (n : Nat) :
    (s.close e o n).frameCount = s.frameCount := rfl
@[simp] theorem State.close_lateCount (e : ErrCode) (o : Bool) (n : Nat) :
    (s.close e o n).lateCount = s.lateCount := rfl
@[simp] theorem State.close_latch (e : ErrCode) (o : Bool) (n : Nat) : (s.close e o n).latch = none := rfl
@[simp] theorem State.close_sfc (e : ErrCode) (o : Bool) (n : Nat) : (s.close e o n).sfc = s.sfc := rfl
@[simp] theorem State.close_line (e : ErrCode) (o : Bool) (n : Nat) : (s.close e o n).line = s.line := rfl
@[simp] theorem State.close_mem (e : ErrCode) (o : Bool) (n : Nat) : (s.close e o n).mem = s.mem := rfl
@[simp] theorem State.close_pending (e : ErrCode) (o : Bool) (n : Nat) : (s.close e o n).pending = s.pending := rfl
@[simp] theorem State.close_port (e : ErrCode) (o : Bool) (n : Nat) : (s.close e o n).port = s.port := rfl
@[simp] theorem State.close_program (e : ErrCode) (o : Bool) (n : Nat) : (s.close e o n).program = s.program := rfl
@[simp] theorem State.close_sched (e : ErrCode) (o : Bool) (n : Nat) : (s.close e o n).sched = s.sched := rfl
@[simp] theorem State.close_draws (e : ErrCode) (o : Bool) (n : Nat) : (s.close e o n).draws = n := rfl

/-! ### State.deliver -/

@[simp] theorem State.deliver_build (r : Results) : (s.deliver r).build = s.build := rfl
@[simp] theorem State.deliver_ctrl (r : Results) : (s.deliver r).ctrl = s.ctrl := rfl
@[simp] theorem State.deliver_flags (r : Results) : (s.deliver r).flags = s.flags := rfl
@[simp] theorem State.deliver_err (r : Results) : (s.deliver r).err = s.err := rfl
@[simp] theorem State.deliver_cause (r : Results) : (s.deliver r).cause = s.cause := rfl
@[simp] theorem State.deliver_irqEn (r : Results) : (s.deliver r).irqEn = s.irqEn := rfl
@[simp] theorem State.deliver_opa (r : Results) : (s.deliver r).opa = s.opa := rfl
@[simp] theorem State.deliver_opb (r : Results) : (s.deliver r).opb = s.opb := rfl
@[simp] theorem State.deliver_opc (r : Results) : (s.deliver r).opc = s.opc := rfl
@[simp] theorem State.deliver_opd (r : Results) : (s.deliver r).opd = s.opd := rfl
@[simp] theorem State.deliver_res0 (r : Results) : (s.deliver r).res0 = r.res0.getD s.res0 := rfl
@[simp] theorem State.deliver_res1 (r : Results) : (s.deliver r).res1 = r.res1.getD s.res1 := rfl
@[simp] theorem State.deliver_accR (r : Results) : (s.deliver r).accR = (r.acc.map (·.1)).getD s.accR := rfl
@[simp] theorem State.deliver_accG (r : Results) : (s.deliver r).accG = (r.acc.map (·.2.1)).getD s.accG := rfl
@[simp] theorem State.deliver_accB (r : Results) : (s.deliver r).accB = (r.acc.map (·.2.2)).getD s.accB := rfl
@[simp] theorem State.deliver_cfg (r : Results) : (s.deliver r).cfg = s.cfg := rfl
@[simp] theorem State.deliver_frameCos (r : Results) :
    (s.deliver r).frameCos = (r.frame.map (·.1)).getD s.frameCos := rfl
@[simp] theorem State.deliver_frameSin (r : Results) :
    (s.deliver r).frameSin = (r.frame.map (·.2.1)).getD s.frameSin := rfl
@[simp] theorem State.deliver_frameZoff (r : Results) :
    (s.deliver r).frameZoff = (r.frame.map (·.2.2)).getD s.frameZoff := rfl
@[simp] theorem State.deliver_curPos (r : Results) : (s.deliver r).curPos = s.curPos := rfl
@[simp] theorem State.deliver_latePos (r : Results) : (s.deliver r).latePos = s.latePos := rfl
@[simp] theorem State.deliver_frameCount (r : Results) : (s.deliver r).frameCount = s.frameCount := rfl
@[simp] theorem State.deliver_lateCount (r : Results) : (s.deliver r).lateCount = s.lateCount := rfl
@[simp] theorem State.deliver_latch (r : Results) : (s.deliver r).latch = s.latch := rfl
@[simp] theorem State.deliver_sfc (r : Results) : (s.deliver r).sfc = s.sfc := rfl
@[simp] theorem State.deliver_line (r : Results) : (s.deliver r).line = s.line := rfl
@[simp] theorem State.deliver_mem (r : Results) : (s.deliver r).mem = s.mem := rfl
@[simp] theorem State.deliver_pending (r : Results) : (s.deliver r).pending = s.pending := rfl
@[simp] theorem State.deliver_port (r : Results) : (s.deliver r).port = s.port := rfl
@[simp] theorem State.deliver_program (r : Results) : (s.deliver r).program = s.program := rfl
@[simp] theorem State.deliver_sched (r : Results) : (s.deliver r).sched = s.sched := rfl
@[simp] theorem State.deliver_draws (r : Results) : (s.deliver r).draws = s.draws := rfl

/-! ### State.raiseSfcFault -/

@[simp] theorem State.raiseSfcFault_build (c : SfcCause) : (s.raiseSfcFault c).build = s.build := rfl
@[simp] theorem State.raiseSfcFault_ctrl (c : SfcCause) :
    (s.raiseSfcFault c).ctrl = { s.ctrl with en := false } := rfl
@[simp] theorem State.raiseSfcFault_flags (c : SfcCause) :
    (s.raiseSfcFault c).flags = { s.flags with sfcerr := true } := rfl
@[simp] theorem State.raiseSfcFault_err (c : SfcCause) : (s.raiseSfcFault c).err = s.err := rfl
@[simp] theorem State.raiseSfcFault_cause (c : SfcCause) : (s.raiseSfcFault c).cause = c := rfl
@[simp] theorem State.raiseSfcFault_irqEn (c : SfcCause) : (s.raiseSfcFault c).irqEn = s.irqEn := rfl
@[simp] theorem State.raiseSfcFault_opa (c : SfcCause) : (s.raiseSfcFault c).opa = s.opa := rfl
@[simp] theorem State.raiseSfcFault_opb (c : SfcCause) : (s.raiseSfcFault c).opb = s.opb := rfl
@[simp] theorem State.raiseSfcFault_opc (c : SfcCause) : (s.raiseSfcFault c).opc = s.opc := rfl
@[simp] theorem State.raiseSfcFault_opd (c : SfcCause) : (s.raiseSfcFault c).opd = s.opd := rfl
@[simp] theorem State.raiseSfcFault_res0 (c : SfcCause) : (s.raiseSfcFault c).res0 = s.res0 := rfl
@[simp] theorem State.raiseSfcFault_res1 (c : SfcCause) : (s.raiseSfcFault c).res1 = s.res1 := rfl
@[simp] theorem State.raiseSfcFault_accR (c : SfcCause) : (s.raiseSfcFault c).accR = s.accR := rfl
@[simp] theorem State.raiseSfcFault_accG (c : SfcCause) : (s.raiseSfcFault c).accG = s.accG := rfl
@[simp] theorem State.raiseSfcFault_accB (c : SfcCause) : (s.raiseSfcFault c).accB = s.accB := rfl
@[simp] theorem State.raiseSfcFault_cfg (c : SfcCause) : (s.raiseSfcFault c).cfg = s.cfg := rfl
@[simp] theorem State.raiseSfcFault_frameCos (c : SfcCause) : (s.raiseSfcFault c).frameCos = s.frameCos := rfl
@[simp] theorem State.raiseSfcFault_frameSin (c : SfcCause) : (s.raiseSfcFault c).frameSin = s.frameSin := rfl
@[simp] theorem State.raiseSfcFault_frameZoff (c : SfcCause) : (s.raiseSfcFault c).frameZoff = s.frameZoff := rfl
@[simp] theorem State.raiseSfcFault_curPos (c : SfcCause) : (s.raiseSfcFault c).curPos = s.curPos := rfl
@[simp] theorem State.raiseSfcFault_latePos (c : SfcCause) : (s.raiseSfcFault c).latePos = s.latePos := rfl
@[simp] theorem State.raiseSfcFault_frameCount (c : SfcCause) : (s.raiseSfcFault c).frameCount = s.frameCount := rfl
@[simp] theorem State.raiseSfcFault_lateCount (c : SfcCause) : (s.raiseSfcFault c).lateCount = s.lateCount := rfl
@[simp] theorem State.raiseSfcFault_latch (c : SfcCause) : (s.raiseSfcFault c).latch = s.latch := rfl
@[simp] theorem State.raiseSfcFault_sfc (c : SfcCause) :
    (s.raiseSfcFault c).sfc = { s.sfc with phase := .off, lateLatch := false } := rfl
@[simp] theorem State.raiseSfcFault_line (c : SfcCause) : (s.raiseSfcFault c).line = s.line := rfl
@[simp] theorem State.raiseSfcFault_mem (c : SfcCause) : (s.raiseSfcFault c).mem = s.mem := rfl
@[simp] theorem State.raiseSfcFault_pending (c : SfcCause) : (s.raiseSfcFault c).pending = s.pending := rfl
@[simp] theorem State.raiseSfcFault_port (c : SfcCause) : (s.raiseSfcFault c).port = s.port := rfl
@[simp] theorem State.raiseSfcFault_program (c : SfcCause) : (s.raiseSfcFault c).program = s.program := rfl
@[simp] theorem State.raiseSfcFault_sched (c : SfcCause) : (s.raiseSfcFault c).sched = s.sched := rfl
@[simp] theorem State.raiseSfcFault_draws (c : SfcCause) : (s.raiseSfcFault c).draws = s.draws := rfl

/-! ### State.noteOvf -/

@[simp] theorem State.noteOvf_build (o : Bool) : (s.noteOvf o).build = s.build := rfl
@[simp] theorem State.noteOvf_ctrl (o : Bool) : (s.noteOvf o).ctrl = s.ctrl := rfl
@[simp] theorem State.noteOvf_flags (o : Bool) : (s.noteOvf o).flags = { s.flags with ovf := s.flags.ovf || o } := rfl
@[simp] theorem State.noteOvf_err (o : Bool) : (s.noteOvf o).err = s.err := rfl
@[simp] theorem State.noteOvf_cause (o : Bool) : (s.noteOvf o).cause = s.cause := rfl
@[simp] theorem State.noteOvf_irqEn (o : Bool) : (s.noteOvf o).irqEn = s.irqEn := rfl
@[simp] theorem State.noteOvf_opa (o : Bool) : (s.noteOvf o).opa = s.opa := rfl
@[simp] theorem State.noteOvf_opb (o : Bool) : (s.noteOvf o).opb = s.opb := rfl
@[simp] theorem State.noteOvf_opc (o : Bool) : (s.noteOvf o).opc = s.opc := rfl
@[simp] theorem State.noteOvf_opd (o : Bool) : (s.noteOvf o).opd = s.opd := rfl
@[simp] theorem State.noteOvf_res0 (o : Bool) : (s.noteOvf o).res0 = s.res0 := rfl
@[simp] theorem State.noteOvf_res1 (o : Bool) : (s.noteOvf o).res1 = s.res1 := rfl
@[simp] theorem State.noteOvf_accR (o : Bool) : (s.noteOvf o).accR = s.accR := rfl
@[simp] theorem State.noteOvf_accG (o : Bool) : (s.noteOvf o).accG = s.accG := rfl
@[simp] theorem State.noteOvf_accB (o : Bool) : (s.noteOvf o).accB = s.accB := rfl
@[simp] theorem State.noteOvf_cfg (o : Bool) : (s.noteOvf o).cfg = s.cfg := rfl
@[simp] theorem State.noteOvf_frameCos (o : Bool) : (s.noteOvf o).frameCos = s.frameCos := rfl
@[simp] theorem State.noteOvf_frameSin (o : Bool) : (s.noteOvf o).frameSin = s.frameSin := rfl
@[simp] theorem State.noteOvf_frameZoff (o : Bool) : (s.noteOvf o).frameZoff = s.frameZoff := rfl
@[simp] theorem State.noteOvf_curPos (o : Bool) : (s.noteOvf o).curPos = s.curPos := rfl
@[simp] theorem State.noteOvf_latePos (o : Bool) : (s.noteOvf o).latePos = s.latePos := rfl
@[simp] theorem State.noteOvf_frameCount (o : Bool) : (s.noteOvf o).frameCount = s.frameCount := rfl
@[simp] theorem State.noteOvf_lateCount (o : Bool) : (s.noteOvf o).lateCount = s.lateCount := rfl
@[simp] theorem State.noteOvf_latch (o : Bool) : (s.noteOvf o).latch = s.latch := rfl
@[simp] theorem State.noteOvf_sfc (o : Bool) : (s.noteOvf o).sfc = s.sfc := rfl
@[simp] theorem State.noteOvf_line (o : Bool) : (s.noteOvf o).line = s.line := rfl
@[simp] theorem State.noteOvf_mem (o : Bool) : (s.noteOvf o).mem = s.mem := rfl
@[simp] theorem State.noteOvf_pending (o : Bool) : (s.noteOvf o).pending = s.pending := rfl
@[simp] theorem State.noteOvf_port (o : Bool) : (s.noteOvf o).port = s.port := rfl
@[simp] theorem State.noteOvf_program (o : Bool) : (s.noteOvf o).program = s.program := rfl
@[simp] theorem State.noteOvf_sched (o : Bool) : (s.noteOvf o).sched = s.sched := rfl
@[simp] theorem State.noteOvf_draws (o : Bool) : (s.noteOvf o).draws = s.draws := rfl

/-! ### State.endFrame -/

@[simp] theorem State.endFrame_build : (s.endFrame).build = s.build := rfl
@[simp] theorem State.endFrame_ctrl : (s.endFrame).ctrl = s.ctrl := rfl
@[simp] theorem State.endFrame_flags : (s.endFrame).flags = s.flags := rfl
@[simp] theorem State.endFrame_err : (s.endFrame).err = s.err := rfl
@[simp] theorem State.endFrame_cause : (s.endFrame).cause = s.cause := rfl
@[simp] theorem State.endFrame_irqEn : (s.endFrame).irqEn = s.irqEn := rfl
@[simp] theorem State.endFrame_opa : (s.endFrame).opa = s.opa := rfl
@[simp] theorem State.endFrame_opb : (s.endFrame).opb = s.opb := rfl
@[simp] theorem State.endFrame_opc : (s.endFrame).opc = s.opc := rfl
@[simp] theorem State.endFrame_opd : (s.endFrame).opd = s.opd := rfl
@[simp] theorem State.endFrame_res0 : (s.endFrame).res0 = s.res0 := rfl
@[simp] theorem State.endFrame_res1 : (s.endFrame).res1 = s.res1 := rfl
@[simp] theorem State.endFrame_accR : (s.endFrame).accR = s.accR := rfl
@[simp] theorem State.endFrame_accG : (s.endFrame).accG = s.accG := rfl
@[simp] theorem State.endFrame_accB : (s.endFrame).accB = s.accB := rfl
@[simp] theorem State.endFrame_cfg :
    (s.endFrame).cfg = { s.cfg with
      rotFrame := nextFrame s.sfc.snap.cfg.rotFrame s.sfc.snap.cfg.rotPeriod
      transFrame := nextFrame s.sfc.snap.cfg.transFrame s.sfc.snap.cfg.transPeriod } := rfl
@[simp] theorem State.endFrame_frameCos : (s.endFrame).frameCos = s.frameCos := rfl
@[simp] theorem State.endFrame_frameSin : (s.endFrame).frameSin = s.frameSin := rfl
@[simp] theorem State.endFrame_frameZoff : (s.endFrame).frameZoff = s.frameZoff := rfl
@[simp] theorem State.endFrame_curPos : (s.endFrame).curPos = s.curPos := rfl
@[simp] theorem State.endFrame_latePos : (s.endFrame).latePos = s.latePos := rfl
@[simp] theorem State.endFrame_frameCount : (s.endFrame).frameCount = s.frameCount := rfl
@[simp] theorem State.endFrame_lateCount : (s.endFrame).lateCount = s.lateCount := rfl
@[simp] theorem State.endFrame_latch : (s.endFrame).latch = s.latch := rfl
@[simp] theorem State.endFrame_sfc :
    (s.endFrame).sfc = { s.sfc with phase := if s.ctrl.en then .wait else .off, lateLatch := false } := rfl
@[simp] theorem State.endFrame_line : (s.endFrame).line = s.line := rfl
@[simp] theorem State.endFrame_mem : (s.endFrame).mem = s.mem := rfl
@[simp] theorem State.endFrame_pending : (s.endFrame).pending = s.pending := rfl
@[simp] theorem State.endFrame_port : (s.endFrame).port = s.port := rfl
@[simp] theorem State.endFrame_program : (s.endFrame).program = s.program := rfl
@[simp] theorem State.endFrame_sched : (s.endFrame).sched = s.sched := rfl
@[simp] theorem State.endFrame_draws : (s.endFrame).draws = s.draws := rfl

/-! ### State.complete -/

@[simp] theorem State.complete_build : (s.complete).build = s.build := rfl
@[simp] theorem State.complete_ctrl : (s.complete).ctrl = s.ctrl := rfl
@[simp] theorem State.complete_flags : (s.complete).flags = { s.flags with done := true } := rfl
@[simp] theorem State.complete_err : (s.complete).err = s.err := rfl
@[simp] theorem State.complete_cause : (s.complete).cause = s.cause := rfl
@[simp] theorem State.complete_irqEn : (s.complete).irqEn = s.irqEn := rfl
@[simp] theorem State.complete_opa : (s.complete).opa = s.opa := rfl
@[simp] theorem State.complete_opb : (s.complete).opb = s.opb := rfl
@[simp] theorem State.complete_opc : (s.complete).opc = s.opc := rfl
@[simp] theorem State.complete_opd : (s.complete).opd = s.opd := rfl
@[simp] theorem State.complete_res0 : (s.complete).res0 = s.res0 := rfl
@[simp] theorem State.complete_res1 : (s.complete).res1 = s.res1 := rfl
@[simp] theorem State.complete_accR : (s.complete).accR = s.accR := rfl
@[simp] theorem State.complete_accG : (s.complete).accG = s.accG := rfl
@[simp] theorem State.complete_accB : (s.complete).accB = s.accB := rfl
@[simp] theorem State.complete_cfg : (s.complete).cfg = s.endFrame.cfg := rfl
@[simp] theorem State.complete_frameCos : (s.complete).frameCos = s.frameCos := rfl
@[simp] theorem State.complete_frameSin : (s.complete).frameSin = s.frameSin := rfl
@[simp] theorem State.complete_frameZoff : (s.complete).frameZoff = s.frameZoff := rfl
@[simp] theorem State.complete_curPos : (s.complete).curPos = s.curPos := rfl
@[simp] theorem State.complete_latePos : (s.complete).latePos = s.latePos := rfl
@[simp] theorem State.complete_frameCount : (s.complete).frameCount = s.frameCount + 1#32 := rfl
@[simp] theorem State.complete_lateCount : (s.complete).lateCount = s.lateCount := rfl
@[simp] theorem State.complete_latch : (s.complete).latch = s.latch := rfl
@[simp] theorem State.complete_sfc : (s.complete).sfc = s.endFrame.sfc := rfl
@[simp] theorem State.complete_line : (s.complete).line = s.line := rfl
@[simp] theorem State.complete_mem : (s.complete).mem = s.mem := rfl
@[simp] theorem State.complete_pending : (s.complete).pending = s.pending := rfl
@[simp] theorem State.complete_port : (s.complete).port = s.port := rfl
@[simp] theorem State.complete_program : (s.complete).program = s.program := rfl
@[simp] theorem State.complete_sched : (s.complete).sched = s.sched := rfl
@[simp] theorem State.complete_draws : (s.complete).draws = s.draws := rfl

/-! ### State.lateEnd -/

@[simp] theorem State.lateEnd_build (x y : Nat) : (s.lateEnd x y).build = s.build := rfl
@[simp] theorem State.lateEnd_ctrl (x y : Nat) : (s.lateEnd x y).ctrl = s.ctrl := rfl
@[simp] theorem State.lateEnd_flags (x y : Nat) : (s.lateEnd x y).flags = { s.flags with late := true } := rfl
@[simp] theorem State.lateEnd_err (x y : Nat) : (s.lateEnd x y).err = s.err := rfl
@[simp] theorem State.lateEnd_cause (x y : Nat) : (s.lateEnd x y).cause = s.cause := rfl
@[simp] theorem State.lateEnd_irqEn (x y : Nat) : (s.lateEnd x y).irqEn = s.irqEn := rfl
@[simp] theorem State.lateEnd_opa (x y : Nat) : (s.lateEnd x y).opa = s.opa := rfl
@[simp] theorem State.lateEnd_opb (x y : Nat) : (s.lateEnd x y).opb = s.opb := rfl
@[simp] theorem State.lateEnd_opc (x y : Nat) : (s.lateEnd x y).opc = s.opc := rfl
@[simp] theorem State.lateEnd_opd (x y : Nat) : (s.lateEnd x y).opd = s.opd := rfl
@[simp] theorem State.lateEnd_res0 (x y : Nat) : (s.lateEnd x y).res0 = s.res0 := rfl
@[simp] theorem State.lateEnd_res1 (x y : Nat) : (s.lateEnd x y).res1 = s.res1 := rfl
@[simp] theorem State.lateEnd_accR (x y : Nat) : (s.lateEnd x y).accR = s.accR := rfl
@[simp] theorem State.lateEnd_accG (x y : Nat) : (s.lateEnd x y).accG = s.accG := rfl
@[simp] theorem State.lateEnd_accB (x y : Nat) : (s.lateEnd x y).accB = s.accB := rfl
@[simp] theorem State.lateEnd_cfg (x y : Nat) : (s.lateEnd x y).cfg = s.endFrame.cfg := rfl
@[simp] theorem State.lateEnd_frameCos (x y : Nat) : (s.lateEnd x y).frameCos = s.frameCos := rfl
@[simp] theorem State.lateEnd_frameSin (x y : Nat) : (s.lateEnd x y).frameSin = s.frameSin := rfl
@[simp] theorem State.lateEnd_frameZoff (x y : Nat) : (s.lateEnd x y).frameZoff = s.frameZoff := rfl
@[simp] theorem State.lateEnd_curPos (x y : Nat) : (s.lateEnd x y).curPos = s.curPos := rfl
@[simp] theorem State.lateEnd_latePos (x y : Nat) : (s.lateEnd x y).latePos = posWord y x := rfl
@[simp] theorem State.lateEnd_frameCount (x y : Nat) : (s.lateEnd x y).frameCount = s.frameCount := rfl
@[simp] theorem State.lateEnd_lateCount (x y : Nat) : (s.lateEnd x y).lateCount = s.lateCount + 1#32 := rfl
@[simp] theorem State.lateEnd_latch (x y : Nat) : (s.lateEnd x y).latch = s.latch := rfl
@[simp] theorem State.lateEnd_sfc (x y : Nat) : (s.lateEnd x y).sfc = s.endFrame.sfc := rfl
@[simp] theorem State.lateEnd_line (x y : Nat) : (s.lateEnd x y).line = s.line := rfl
@[simp] theorem State.lateEnd_mem (x y : Nat) : (s.lateEnd x y).mem = s.mem := rfl
@[simp] theorem State.lateEnd_pending (x y : Nat) : (s.lateEnd x y).pending = s.pending := rfl
@[simp] theorem State.lateEnd_port (x y : Nat) : (s.lateEnd x y).port = s.port := rfl
@[simp] theorem State.lateEnd_program (x y : Nat) : (s.lateEnd x y).program = s.program := rfl
@[simp] theorem State.lateEnd_sched (x y : Nat) : (s.lateEnd x y).sched = s.sched := rfl
@[simp] theorem State.lateEnd_draws (x y : Nat) : (s.lateEnd x y).draws = s.draws := rfl

/-! ### State.advanceCursor -/

@[simp] theorem State.advanceCursor_build : (s.advanceCursor).build = s.build := rfl
@[simp] theorem State.advanceCursor_ctrl : (s.advanceCursor).ctrl = s.ctrl := rfl
@[simp] theorem State.advanceCursor_flags : (s.advanceCursor).flags = s.flags := rfl
@[simp] theorem State.advanceCursor_err : (s.advanceCursor).err = s.err := rfl
@[simp] theorem State.advanceCursor_cause : (s.advanceCursor).cause = s.cause := rfl
@[simp] theorem State.advanceCursor_irqEn : (s.advanceCursor).irqEn = s.irqEn := rfl
@[simp] theorem State.advanceCursor_opa : (s.advanceCursor).opa = s.opa := rfl
@[simp] theorem State.advanceCursor_opb : (s.advanceCursor).opb = s.opb := rfl
@[simp] theorem State.advanceCursor_opc : (s.advanceCursor).opc = s.opc := rfl
@[simp] theorem State.advanceCursor_opd : (s.advanceCursor).opd = s.opd := rfl
@[simp] theorem State.advanceCursor_res0 : (s.advanceCursor).res0 = s.res0 := rfl
@[simp] theorem State.advanceCursor_res1 : (s.advanceCursor).res1 = s.res1 := rfl
@[simp] theorem State.advanceCursor_accR : (s.advanceCursor).accR = s.accR := rfl
@[simp] theorem State.advanceCursor_accG : (s.advanceCursor).accG = s.accG := rfl
@[simp] theorem State.advanceCursor_accB : (s.advanceCursor).accB = s.accB := rfl
@[simp] theorem State.advanceCursor_cfg : (s.advanceCursor).cfg = s.cfg := rfl
@[simp] theorem State.advanceCursor_frameCos : (s.advanceCursor).frameCos = s.frameCos := rfl
@[simp] theorem State.advanceCursor_frameSin : (s.advanceCursor).frameSin = s.frameSin := rfl
@[simp] theorem State.advanceCursor_frameZoff : (s.advanceCursor).frameZoff = s.frameZoff := rfl
@[simp] theorem State.advanceCursor_curPos : (s.advanceCursor).curPos = s.curPos := rfl
@[simp] theorem State.advanceCursor_latePos : (s.advanceCursor).latePos = s.latePos := rfl
@[simp] theorem State.advanceCursor_frameCount : (s.advanceCursor).frameCount = s.frameCount := rfl
@[simp] theorem State.advanceCursor_lateCount : (s.advanceCursor).lateCount = s.lateCount := rfl
@[simp] theorem State.advanceCursor_latch : (s.advanceCursor).latch = s.latch := rfl
@[simp] theorem State.advanceCursor_sfc :
    (s.advanceCursor).sfc = { s.sfc with cursor := s.sfc.snap.nextCursor s.sfc.cursor } := rfl
@[simp] theorem State.advanceCursor_line : (s.advanceCursor).line = s.line := rfl
@[simp] theorem State.advanceCursor_mem : (s.advanceCursor).mem = s.mem := rfl
@[simp] theorem State.advanceCursor_pending : (s.advanceCursor).pending = s.pending := rfl
@[simp] theorem State.advanceCursor_port : (s.advanceCursor).port = s.port := rfl
@[simp] theorem State.advanceCursor_program : (s.advanceCursor).program = s.program := rfl
@[simp] theorem State.advanceCursor_sched : (s.advanceCursor).sched = s.sched := rfl
@[simp] theorem State.advanceCursor_draws : (s.advanceCursor).draws = s.draws := rfl

end Sys2Proof.Machine
end

