-- ==== Sys2Proof/Laws/Command.lean ====
section
/-! SUPPORT. What any command step can do (44_register_access.md R256; 60_exceptions.md R271): it goes
through `finishCommand` with results, or with DOMAIN or BUSERR; its frame; and what it computes from. -/

namespace Sys2Proof.Machine

/-- The error of a finished command, if any, is DOMAIN or BUSERR (R270). -/
def CommandError (r : Except ErrCode Results) : Prop := ∀ e, r = .error e → e = .domain ∨ e = .buserr

theorem commandError_ok (r : Results) : CommandError (.ok r) := by rintro e ⟨⟩

theorem commandError_domain : CommandError (.error .domain) := by
  rintro e ⟨⟩
  exact .inl rfl

theorem commandError_buserr : CommandError (.error .buserr) := by
  rintro e ⟨⟩
  exact .inr rfl

theorem commandError_march (c : Cfg) (f : PixFmt) (o : Option MarchOut) : CommandError (marchResult c f o) := by
  cases o
  · exact commandError_buserr
  · exact commandError_ok _

/-- Every command step is a completion: the state after it is `finishCommand` of some outcome, and an
error is DOMAIN or BUSERR. -/
theorem exec_finishes (i : Instr) (s : State) :
    ∃ n o r, exec i s = .next (s.finishCommand n o r) ∧ CommandError r := by
  cases i with
  | nop => exact ⟨_, _, _, rfl, commandError_ok _⟩
  | cossin =>
    refine ⟨_, _, _, rfl, ?_⟩
    cases cossin s.build.q (i32 (s.running .cossin).a) with
    | none => exact commandError_domain
    | some _ => exact commandError_ok _
  | qexp =>
    refine ⟨_, _, _, rfl, ?_⟩
    dsimp only
    split
    · exact commandError_domain
    · exact commandError_ok _
  | isqrt =>
    refine ⟨_, _, _, rfl, ?_⟩
    dsimp only
    split
    · exact commandError_domain
    · exact commandError_ok _
  | rot2d => exact ⟨_, _, _, rfl, commandError_ok _⟩
  | packyz => exact ⟨_, _, _, rfl, commandError_ok _⟩
  | lutidx => exact ⟨_, _, _, rfl, commandError_ok _⟩
  | lutfetch =>
    by_cases h : 2 ^ 21 ≤ idx (s.running .lutfetch).a
    · exact ⟨s.draws, false, .error .domain, by simp only [exec, execLutfetch, if_pos h], commandError_domain⟩
    · cases hr : s.fetchEntry (s.running .lutfetch).cfg s.draws (s.running .lutfetch).a with
      | mk v n =>
        cases v with
        | none =>
          exact ⟨n, false, .error .buserr, by simp only [exec, execLutfetch, if_neg h, hr], commandError_buserr⟩
        | some e =>
          exact ⟨n, false, .ok { res0 := some e }, by simp only [exec, execLutfetch, if_neg h, hr],
            commandError_ok _⟩
  | lutsample =>
    refine ⟨_, _, _, rfl, ?_⟩
    split
    · exact commandError_buserr
    · exact commandError_ok _
  | march => exact ⟨_, _, _, rfl, commandError_march _ _ _⟩
  | framepre =>
    refine ⟨_, _, _, rfl, ?_⟩
    cases frameConst s.build.q (s.running .framepre).cfg with
    | none => exact commandError_domain
    | some _ => exact commandError_ok _
  | pixel => exact ⟨_, _, _, rfl, commandError_march _ _ _⟩

/-- What `finishCommand` leaves unchanged: everything but ERR, the flags, the latch, the draws and the
result registers. -/
structure SameButResults (s t : State) : Prop where
  build : t.build = s.build
  ctrl : t.ctrl = s.ctrl
  cause : t.cause = s.cause
  irqEn : t.irqEn = s.irqEn
  operands : t.opa = s.opa ∧ t.opb = s.opb ∧ t.opc = s.opc ∧ t.opd = s.opd
  cfg : t.cfg = s.cfg
  positions : t.curPos = s.curPos ∧ t.latePos = s.latePos
  counts : t.frameCount = s.frameCount ∧ t.lateCount = s.lateCount
  sfc : t.sfc = s.sfc
  line : t.line = s.line
  mem : t.mem = s.mem
  pending : t.pending = s.pending
  port : t.port = s.port
  program : t.program = s.program
  sched : t.sched = s.sched
  latch : t.latch = none
  cmddone : t.flags.cmddone = true
  others : t.flags.cmdovr = s.flags.cmdovr ∧ t.flags.done = s.flags.done ∧ t.flags.late = s.flags.late
    ∧ t.flags.sfcerr = s.flags.sfcerr ∧ t.flags.fstart = s.flags.fstart

theorem finishCommand_same (s : State) (n : Nat) (o : Bool) (r : Except ErrCode Results) :
    SameButResults s (s.finishCommand n o r) := by
  cases r <;> constructor <;> first | rfl | exact ⟨rfl, rfl⟩ | exact ⟨rfl, rfl, rfl, rfl⟩ | exact ⟨rfl, rfl, rfl, rfl, rfl⟩

@[simp] theorem finishCommand_ovf (s : State) (n : Nat) (o : Bool) (r : Except ErrCode Results) :
    (s.finishCommand n o r).flags.ovf = (s.flags.ovf || o) := by cases r <;> rfl

/-- A command step always answers a next state (R256), and this is what it leaves unchanged. -/
theorem exec_same (i : Instr) (s : State) : ∃ t, exec i s = .next t ∧ SameButResults s t := by
  obtain ⟨n, o, r, h, -⟩ := exec_finishes i s
  exact ⟨_, h, finishCommand_same s n o r⟩

/-! ### What a command computes from -/

/-- Two states a command cannot tell apart: the same build, latch, memory, pending bytes and draws. -/
structure SameInputs (s t : State) : Prop where
  build : t.build = s.build
  latch : t.latch = s.latch
  mem : t.mem = s.mem
  pending : t.pending = s.pending
  draws : t.draws = s.draws

theorem marchLoop_congr {s t : State} (hb : t.build = s.build) (hm : t.mem = s.mem)
    (hp : t.pending = s.pending) (c : Cfg) (dx dyz : Word) (rem : Nat) (x yz : Word) (o : MarchOut) (n : Nat) :
    marchLoop t c dx dyz rem x yz o n = marchLoop s c dx dyz rem x yz o n := by
  induction rem generalizing x yz o n with
  | zero => rfl
  | succ rem ih =>
    simp only [marchLoop, State.fetchEntry, hb, State.busRead_congr hb hm hp, ih]

theorem march_congr {s t : State} (hb : t.build = s.build) (hm : t.mem = s.mem)
    (hp : t.pending = s.pending) (c : Cfg) (ray : Ray) (n : Nat) : march t c ray n = march s c ray n :=
  marchLoop_congr hb hm hp c _ _ _ _ _ _ n

/-- A running command's outcome is a function of the latch, the build, memory and the draws (R58, R306). -/
theorem exec_outcome_congr (i : Instr) {s t : State} {l : Latch} (h : SameInputs s t) (hl : s.latch = some l) :
    ∃ n o r, exec i s = .next (s.finishCommand n o r) ∧ exec i t = .next (t.finishCommand n o r) := by
  have hs : ∀ j, s.running j = l := fun j => by simp [State.running, hl]
  have ht : ∀ j, t.running j = l := fun j => by simp [State.running, h.latch, hl]
  cases i with
  | nop => exact ⟨_, _, _, rfl, by simp only [exec, execNop, h.draws]⟩
  | cossin => exact ⟨_, _, _, rfl, by simp only [exec, execCossin, h.draws, h.build, hs, ht]⟩
  | qexp => exact ⟨_, _, _, rfl, by simp only [exec, execQexp, h.draws, h.build, hs, ht]⟩
  | isqrt => exact ⟨_, _, _, rfl, by simp only [exec, execIsqrt, h.draws, hs, ht]⟩
  | rot2d => exact ⟨_, _, _, rfl, by simp only [exec, execRot2d, h.draws, h.build, hs, ht]⟩
  | packyz => exact ⟨_, _, _, rfl, by simp only [exec, execPackyz, h.draws, hs, ht]⟩
  | lutidx => exact ⟨_, _, _, rfl, by simp only [exec, execLutidx, h.draws, h.build, hs, ht]⟩
  | lutfetch =>
    have hf : ∀ n a, t.fetchEntry l.cfg n a = s.fetchEntry l.cfg n a := fun n a =>
      State.busRead_congr h.build h.mem h.pending _ _ _
    by_cases hd : 2 ^ 21 ≤ idx l.a
    · exact ⟨s.draws, false, .error .domain, by simp only [exec, execLutfetch, hs, if_pos hd],
        by simp only [exec, execLutfetch, ht, if_pos hd, h.draws]⟩
    · refine ⟨_, _, _, by simp only [exec, execLutfetch, hs, if_neg hd]; rfl, ?_⟩
      simp only [exec, execLutfetch, ht, if_neg hd, h.draws, hf]
  | lutsample =>
    have hf : ∀ n a, t.fetchEntry l.cfg n a = s.fetchEntry l.cfg n a := fun n a =>
      State.busRead_congr h.build h.mem h.pending _ _ _
    exact ⟨_, _, _, rfl, by simp only [exec, execLutsample, h.draws, h.build, hs, ht, hf]⟩
  | march =>
    exact ⟨_, _, _, rfl, by
      simp only [exec, execMarch, h.draws, hs, ht, march_congr h.build h.mem h.pending]⟩
  | framepre => exact ⟨_, _, _, rfl, by simp only [exec, execFramepre, h.draws, h.build, hs, ht]⟩
  | pixel =>
    exact ⟨_, _, _, rfl, by
      simp only [exec, execPixel, h.draws, h.build, hs, ht, march_congr h.build h.mem h.pending]⟩

end Sys2Proof.Machine
end

