-- ==== Sys2Proof/Laws/Flags.lean ====
section
/-! SUPPORT. Laws of the flag computations (Machine/Flags.lean): single bits of the words they build. -/

namespace Sys2Proof.Machine

/-- The bits of `bitAt`. -/
theorem getLsbD_bitAt (b : Bool) (k i : Nat) (h : i < 32) :
    (bitAt b k).getLsbD i = (b && decide (i = k)) := by
  cases b
  · simp [bitAt]
  · simp only [bitAt, if_true, BitVec.getLsbD_shiftLeft, BitVec.getLsbD_one, Bool.true_and]
    by_cases h1 : i = k
    · subst h1
      simp [h]
    · simp only [h1, decide_false, h, decide_true, Bool.true_and, Bool.and_eq_false_iff,
        Bool.not_eq_false', decide_eq_true_eq, decide_eq_false_iff_not, Nat.reduceLT]
      omega

@[simp] theorem getElem_bitAt (b : Bool) (k i : Nat) (h : i < 32) :
    (bitAt b k)[i] = (b && decide (i = k)) := by
  rw [← BitVec.getLsbD_eq_getElem, getLsbD_bitAt b k i h]

/-- The bits of `fieldAt`. -/
theorem getLsbD_fieldAt (v k i : Nat) (h : i < 32) :
    (fieldAt v k).getLsbD i = (decide (k ≤ i) && v.testBit (i - k)) := by
  have h2 : i - k < 32 := by omega
  simp only [fieldAt, BitVec.getLsbD_shiftLeft, BitVec.getLsbD_ofNat, h, h2, decide_true, Bool.true_and]
  by_cases h1 : i < k
  · simp [h1, Nat.not_le.mpr h1]
  · simp [h1, Nat.not_lt.mp h1]

@[simp] theorem getElem_fieldAt (v k i : Nat) (h : i < 32) :
    (fieldAt v k)[i] = (decide (k ≤ i) && v.testBit (i - k)) := by
  rw [← BitVec.getLsbD_eq_getElem, getLsbD_fieldAt v k i h]

/-- A field narrower than the bits above it has no bit there. -/
theorem testBit_of_lt {v n i : Nat} (h : v < 2 ^ n) (hi : n ≤ i) : v.testBit i = false :=
  Nat.testBit_lt_two_pow (lt_of_lt_of_le h (Nat.pow_le_pow_right (by decide) hi))

theorem ErrCode.code_lt (e : ErrCode) : e.code < 2 ^ 4 := by cases e <;> decide
theorem Phase.code_lt (p : Phase) : p.code < 2 ^ 2 := by cases p <;> decide
theorem SfcCause.code_lt (c : SfcCause) : c.code < 2 ^ 2 := by cases c <;> decide

/-- Bit `i` of the seven flags as a word. -/
theorem Flags.getLsbD_toWord (f : Flags) (i : Nat) (h : i < 32) :
    f.toWord.getLsbD i = ((f.cmdovr && decide (i = 1)) || (f.ovf && decide (i = 2))
      || (f.cmddone && decide (i = 3)) || (f.done && decide (i = 10)) || (f.late && decide (i = 11))
      || (f.sfcerr && decide (i = 12)) || (f.fstart && decide (i = 15))) := by
  simp only [Flags.toWord, BitVec.getLsbD_or, getLsbD_bitAt _ _ i h]

/-- Bit `i` of STATUS as read (R27). -/
theorem State.getLsbD_statusWord (s : State) (i : Nat) (h : i < 32) :
    s.statusWord.getLsbD i = ((s.busy && decide (i = 0)) || s.flags.toWord.getLsbD i
      || (decide (4 ≤ i) && s.err.code.testBit (i - 4))
      || (decide (8 ≤ i) && s.sfc.phase.code.testBit (i - 8))
      || (decide (13 ≤ i) && s.cause.code.testBit (i - 13))) := by
  simp only [State.statusWord, BitVec.getLsbD_or, getLsbD_bitAt _ _ i h, getLsbD_fieldAt _ _ i h]

/-- Flags written and read back keep the seven bits of the word and no other (R35). -/
theorem Flags.toWord_ofWord (v : Word) : (Flags.ofWord v).toWord = v &&& 0x00009C0E#32 := by
  apply BitVec.eq_of_getLsbD_eq
  intro i hi
  rw [Flags.getLsbD_toWord _ i hi, BitVec.getLsbD_and]
  simp only [Flags.ofWord]
  interval_cases i <;> simp

/-- CTRL written and read back keeps its four bits and no other (R26). -/
theorem Ctrl.toWord_ofWord (v : Word) : (Ctrl.ofWord v).toWord = v &&& 0x0000000F#32 := by
  apply BitVec.eq_of_getLsbD_eq
  intro i hi
  simp only [Ctrl.toWord, Ctrl.ofWord, BitVec.getLsbD_or, BitVec.getLsbD_and, getLsbD_bitAt _ _ i hi]
  have hc : (PixFmt.ofCode (v.getLsbD 3)).code = v.getLsbD 3 := by cases v.getLsbD 3 <;> rfl
  rw [hc]
  interval_cases i <;> simp

end Sys2Proof.Machine
end

