-- ==== Sys2Proof/Laws/Frame.lean ====
section
/-! SUPPORT. Laws of the frame controller (43_frame_controller.md R207 to R224): what the column search
and the sub-phase search find, and everything a pixel operation, a SYNC and a turn can do. -/

namespace Sys2Proof.Machine

/-! ### Searching for the next column -/

/-- A column found is the first one of the range that satisfies the predicate. -/
theorem nextCol_some {p : Nat → Bool} {n x z : Nat} (h : nextCol p n x = some z) :
    x ≤ z ∧ z < x + n ∧ p z = true ∧ ∀ k, x ≤ k → k < z → p k = false := by
  induction n generalizing x with
  | zero => simp [nextCol] at h
  | succ n ih =>
    simp only [nextCol] at h
    split at h
    next hp =>
      cases h
      exact ⟨le_refl _, by omega, hp, fun k h1 h2 => by omega⟩
    next hp =>
      obtain ⟨h1, h2, h3, h4⟩ := ih h
      refine ⟨by omega, by omega, h3, fun k hk1 hk2 => ?_⟩
      by_cases hk : k = x
      · rw [hk]
        simpa using hp
      · exact h4 k (by omega) hk2

/-- No column found: none of the range satisfies the predicate. -/
theorem nextCol_none {p : Nat → Bool} {n x : Nat} (h : nextCol p n x = none) :
    ∀ k, x ≤ k → k < x + n → p k = false := by
  induction n generalizing x with
  | zero => intro k h1 h2; omega
  | succ n ih =>
    simp only [nextCol] at h
    split at h
    · cases h
    next hp =>
      intro k h1 h2
      by_cases hk : k = x
      · rw [hk]
        simpa using hp
      · exact ih h k (by omega) (by omega)

/-! ### Sub-phases -/

/-- A mirrored row has only mirrored rows below it (R213). -/
theorem Snap.mirrored_mono (sn : Snap) {y z : Nat} (hyz : y ≤ z) (h : sn.mirrored y = true) :
    sn.mirrored z = true := by
  simp only [Snap.mirrored, Bool.and_eq_true, decide_eq_true_eq] at h ⊢
  exact ⟨h.1, by omega⟩

/-- Row 0 is never mirrored (R213). -/
theorem Snap.mirrored_zero (sn : Snap) : sn.mirrored 0 = false := by
  simp [Snap.mirrored]

/-- The row of a sub-phase is one the sub-phase works on (R214, R216, R220). -/
def Snap.SubOk (sn : Snap) (sub : SubPhase) (y : Nat) : Prop :=
  match sub with
  | .render => y < sn.h ∧ sn.mirrored y = false
  | .recon => sn.checker = true ∧ 1 ≤ y ∧ y ≤ sn.h ∧ sn.mirrored (y - 1) = false
  | .mirror => y < sn.h ∧ sn.mirrored y = true
  | .paint x0 => y < sn.h ∧ x0 < sn.w
  | .finish => True

theorem Snap.rowStart_subOk (sn : Snap) (hh : sn.h ≠ 0) (y : Nat) :
    sn.SubOk (sn.rowStart y).1 (sn.rowStart y).2 := by
  unfold Snap.rowStart
  split
  next h1 =>
    split
    next h2 =>
      simp only [Bool.and_eq_true, Bool.not_eq_true'] at h2
      exact ⟨h2.1, by omega, le_refl _, h2.2⟩
    · exact trivial
  next h1 =>
    split
    next h2 => exact ⟨by omega, by simpa using h2⟩
    next h2 =>
      have hm : sn.mirrored y = true := by simpa using h2
      split
      next h3 =>
        simp only [Bool.and_eq_true, Bool.not_eq_true'] at h3
        refine ⟨h3.1, ?_, by omega, h3.2⟩
        rcases Nat.eq_zero_or_pos y with h0 | h0
        · rw [h0, sn.mirrored_zero] at hm
          cases hm
        · exact h0
      · exact ⟨by omega, hm⟩

theorem Snap.subNext_subOk (sn : Snap) (hh : sn.h ≠ 0) {sub : SubPhase} {y : Nat} (h : sn.SubOk sub y) :
    sn.SubOk (sn.subNext sub y).1 (sn.subNext sub y).2 := by
  cases sub with
  | render =>
    simp only [Snap.subNext]
    split
    next hc =>
      simp only [Bool.and_eq_true, decide_eq_true_eq] at hc
      refine ⟨hc.1, hc.2, h.1.le, ?_⟩
      cases hm : sn.mirrored (y - 1)
      · rfl
      · have h2 : sn.mirrored y = false := h.2
        rw [sn.mirrored_mono (by omega : y - 1 ≤ y) hm] at h2
        exact h2
    · exact sn.rowStart_subOk hh _
  | recon =>
    simp only [Snap.subNext]
    split
    · exact trivial
    next h1 =>
      split
      next h2 => exact ⟨by omega, h2⟩
      · exact sn.rowStart_subOk hh _
  | mirror => exact sn.rowStart_subOk hh _
  | paint x0 => exact trivial
  | finish => exact trivial

/-- A cursor on a column its sub-phase works on is legal when its row is. -/
theorem Snap.cursorOk_of_works (sn : Snap) {sub : SubPhase} {y x : Nat} (h : sn.SubOk sub y) (hx : x < sn.w)
    (hw : sn.works sub y x = true) : sn.cursorOk ⟨sub, y, x⟩ = true := by
  cases sub with
  | render => simpa [Snap.cursorOk, h.1, hx, Snap.works] using hw
  | recon => simpa [Snap.cursorOk, h.1, h.2.1, h.2.2.1, hx, Snap.works] using hw
  | mirror => simp [Snap.cursorOk, h.1, h.2, hx]
  | paint x0 => simpa [Snap.cursorOk, h.1, h.2, hx, Snap.works] using hw
  | finish => rfl

/-- The row of a legal cursor is one its sub-phase works on. -/
theorem Snap.subOk_of_cursorOk (sn : Snap) {c : Cursor} (h : sn.cursorOk c = true) : sn.SubOk c.sub c.y := by
  rcases c with ⟨sub, y, x⟩
  cases sub with
  | render =>
    simp only [Snap.cursorOk, Snap.rendered, Bool.and_eq_true, decide_eq_true_eq, Bool.not_eq_true'] at h
    exact ⟨h.1.1, h.2.1⟩
  | recon =>
    simp only [Snap.cursorOk, Snap.skipped, Bool.and_eq_true, decide_eq_true_eq, Bool.not_eq_true'] at h
    exact ⟨h.1.1.1.1, h.1.1.1.2, h.1.1.2, h.2.1⟩
  | mirror =>
    simp only [Snap.cursorOk, Bool.and_eq_true, decide_eq_true_eq] at h
    exact ⟨h.1.1, h.2⟩
  | paint x0 =>
    simp only [Snap.cursorOk, Bool.and_eq_true, decide_eq_true_eq] at h
    exact ⟨h.1.1.1, h.1.2⟩
  | finish => trivial

/-- The search of R214 from a legal sub-phase gives a legal cursor. -/
theorem Snap.seek_cursorOk (sn : Snap) (hh : sn.h ≠ 0) (n : Nat) {sub : SubPhase} {y : Nat} (x : Nat)
    (h : sn.SubOk sub y) : sn.cursorOk (sn.seek n sub y x) = true := by
  induction n generalizing sub y x with
  | zero => rfl
  | succ n ih =>
    have key : sub ≠ .finish →
        sn.cursorOk (match nextCol (sn.works sub y) (sn.w - x) x with
          | some x' => ⟨sub, y, x'⟩
          | none => sn.seek n (sn.subNext sub y).1 (sn.subNext sub y).2 0) = true := by
      intro _
      split
      next x' hx =>
        obtain ⟨h1, h2, h3, -⟩ := nextCol_some hx
        exact sn.cursorOk_of_works h (by omega) h3
      · exact ih 0 (sn.subNext_subOk hh h)
    cases sub with
    | render => exact key (by simp)
    | recon => exact key (by simp)
    | mirror => exact key (by simp)
    | paint x0 => exact key (by simp)
    | finish => rfl

theorem Snap.h_ne_zero (sn : Snap) (h : sn.configOk = true) : sn.h ≠ 0 := by
  intro h0
  simp [Snap.configOk, h0] at h

theorem Snap.w_ne_zero (sn : Snap) (h : sn.configOk = true) : sn.w ≠ 0 := by
  intro h0
  simp [Snap.configOk, h0] at h

/-- The cursor at the start of a legal frame is legal. -/
theorem Snap.firstCursor_ok (sn : Snap) (h : sn.configOk = true) : sn.cursorOk sn.firstCursor = true :=
  sn.seek_cursorOk (sn.h_ne_zero h) _ _ (sn.rowStart_subOk (sn.h_ne_zero h) 0)

/-- The cursor after a legal one is legal. -/
theorem Snap.nextCursor_ok (sn : Snap) (h : sn.configOk = true) {c : Cursor} (hc : sn.cursorOk c = true) :
    sn.cursorOk (sn.nextCursor c) = true :=
  sn.seek_cursorOk (sn.h_ne_zero h) _ _ (sn.subOk_of_cursorOk hc)

/-! ### Pixel operations, SYNC and turns -/

/-- What no turn of the frame controller changes. -/
structure SameButFrame (s t : State) : Prop where
  build : t.build = s.build
  err : t.err = s.err
  irqEn : t.irqEn = s.irqEn
  operands : t.opa = s.opa ∧ t.opb = s.opb ∧ t.opc = s.opc ∧ t.opd = s.opd
  results : t.res0 = s.res0 ∧ t.res1 = s.res1 ∧ t.accR = s.accR ∧ t.accG = s.accG ∧ t.accB = s.accB
  latch : t.latch = s.latch
  line : t.line = s.line
  pending : t.pending = s.pending
  port : t.port = s.port
  program : t.program = s.program
  sched : t.sched = s.sched
  cmdovr : t.flags.cmdovr = s.flags.cmdovr
  cmddone : t.flags.cmddone = s.flags.cmddone
  fstart : t.flags.fstart = s.flags.fstart

theorem SameButFrame.refl (s : State) : SameButFrame s s := by
  constructor <;> first | rfl | exact ⟨rfl, rfl, rfl, rfl⟩ | exact ⟨rfl, rfl, rfl, rfl, rfl⟩

theorem SameButFrame.trans {s t u : State} (h1 : SameButFrame s t) (h2 : SameButFrame t u) : SameButFrame s u := by
  constructor
  · rw [h2.build, h1.build]
  · rw [h2.err, h1.err]
  · rw [h2.irqEn, h1.irqEn]
  · obtain ⟨a, b, c, d⟩ := h1.operands
    obtain ⟨a', b', c', d'⟩ := h2.operands
    exact ⟨a'.trans a, b'.trans b, c'.trans c, d'.trans d⟩
  · obtain ⟨a, b, c, d, e⟩ := h1.results
    obtain ⟨a', b', c', d', e'⟩ := h2.results
    exact ⟨a'.trans a, b'.trans b, c'.trans c, d'.trans d, e'.trans e⟩
  · rw [h2.latch, h1.latch]
  · rw [h2.line, h1.line]
  · rw [h2.pending, h1.pending]
  · rw [h2.port, h1.port]
  · rw [h2.program, h1.program]
  · rw [h2.sched, h1.sched]
  · rw [h2.cmdovr, h1.cmdovr]
  · rw [h2.cmddone, h1.cmddone]
  · rw [h2.fstart, h1.fstart]

/-- A pixel read looks at the build, memory, the pending bytes and the snapshot only. -/
theorem State.readPixel_congr {s t : State} (hb : t.build = s.build) (hm : t.mem = s.mem)
    (hp : t.pending = s.pending) (hf : t.sfc = s.sfc) (n x y : Nat) : t.readPixel n x y = s.readPixel n x y := by
  simp only [State.readPixel, hf]
  exact State.busRead_congr hb hm hp _ _ _

/-- Everything a pixel write can do (R215, R216, R218, R220): go on from the stored state, or
SfcFault(BUSERR) with each byte old or new. -/
theorem State.writePixelThen_cases (s : State) (x y : Nat) (v : Word) (k : State → State) :
    (Build.busOk s.build (s.sfc.snap.fbAddr x y) s.sfc.snap.pixfmt.width .write = true ∧
      s.writePixelThen x y v k
        = k { s with mem := Memory.store s.mem s.sfc.snap.pixfmt.width.bytes (s.sfc.snap.fbAddr x y) v }) ∨
    (Build.busOk s.build (s.sfc.snap.fbAddr x y) s.sfc.snap.pixfmt.width .write = false ∧
      s.writePixelThen x y v k
        = State.raiseSfcFault { s with
            mem := Memory.storeSome s.mem s.sfc.snap.pixfmt.width.bytes s.draws (s.sfc.snap.fbAddr x y) v
            draws := s.draws + s.sfc.snap.pixfmt.width.bytes } .buserr) := by
  rcases s.busWrite_cases (s.sfc.snap.fbAddr x y) s.sfc.snap.pixfmt.width v with ⟨h1, h2⟩ | ⟨h1, h2⟩
  · exact .inl ⟨h1, by simp only [State.writePixelThen, h2, if_true]⟩
  · exact .inr ⟨h1, by simp [State.writePixelThen, h2]⟩

/-- The three cases of a SYNC with the operation it guards (R207). -/
theorem State.guarded_cases (s : State) (x y : Nat) (op : State → State) :
    (s.sfc.lateLatch = true ∧ s.guarded x y op = State.startFault { s with curPos := posWord y x } x y) ∨
    (s.sfc.lateLatch = false ∧ s.sfc.snap.cfg.voff.toNat + y < s.line.toNat ∧
      s.guarded x y op = op { s with curPos := posWord y x }) ∨
    (s.sfc.lateLatch = false ∧ s.line.toNat ≤ s.sfc.snap.cfg.voff.toNat + y ∧
      s.guarded x y op = { s with curPos := posWord y x }) := by
  cases hl : s.sfc.lateLatch
  · right
    by_cases h : s.sfc.snap.cfg.voff.toNat + y < s.line.toNat
    · exact .inl ⟨rfl, h, by simp [State.guarded, State.syncResult, hl, h]⟩
    · exact .inr ⟨rfl, Nat.not_lt.mp h, by simp [State.guarded, State.syncResult, hl, h]⟩
  · exact .inl ⟨rfl, by simp [State.guarded, State.syncResult, hl]⟩

/-- A late row whose every pixel is written needs no painting; the legal cursors never give one. -/
theorem State.startFault_cases (s : State) (x0 y : Nat) :
    (∃ x, x < s.sfc.snap.w ∧ s.sfc.snap.unwritten x0 y x = true
      ∧ (∀ z, z < x → s.sfc.snap.unwritten x0 y z = false)
      ∧ s.startFault x0 y
        = State.paintPixel { s with sfc := { s.sfc with cursor := ⟨.paint x0, y, x⟩ } } x0 y x) ∨
    ((∀ z, z < s.sfc.snap.w → s.sfc.snap.unwritten x0 y z = false) ∧ s.startFault x0 y = s.lateEnd x0 y) := by
  simp only [State.startFault]
  split
  next x hx =>
    obtain ⟨-, h2, h3, h4⟩ := nextCol_some hx
    exact .inl ⟨x, by omega, h3, fun z hz => h4 z (Nat.zero_le _) hz, rfl⟩
  next hx => exact .inr ⟨fun z hz => nextCol_none hx z (Nat.zero_le _) (by omega), rfl⟩

theorem State.raiseSfcFault_same (s : State) (c : SfcCause) : SameButFrame s (s.raiseSfcFault c) := by
  constructor <;> first | rfl | exact ⟨rfl, rfl, rfl, rfl⟩ | exact ⟨rfl, rfl, rfl, rfl, rfl⟩

theorem State.advanceCursor_same (s : State) : SameButFrame s s.advanceCursor := by
  constructor <;> first | rfl | exact ⟨rfl, rfl, rfl, rfl⟩ | exact ⟨rfl, rfl, rfl, rfl, rfl⟩

theorem State.complete_same (s : State) : SameButFrame s s.complete := by
  constructor <;> first | rfl | exact ⟨rfl, rfl, rfl, rfl⟩ | exact ⟨rfl, rfl, rfl, rfl, rfl⟩

theorem State.lateEnd_same (s : State) (x0 y : Nat) : SameButFrame s (s.lateEnd x0 y) := by
  constructor <;> first | rfl | exact ⟨rfl, rfl, rfl, rfl⟩ | exact ⟨rfl, rfl, rfl, rfl, rfl⟩

/-- A change of memory and of the draws is no change `SameButFrame` looks at. -/
theorem State.stored_same (s : State) (m : Memory) (n : Nat) :
    SameButFrame s { s with mem := m, draws := n } := by
  constructor <;> first | rfl | exact ⟨rfl, rfl, rfl, rfl⟩ | exact ⟨rfl, rfl, rfl, rfl, rfl⟩

theorem State.curPos_same (s : State) (w : Word) : SameButFrame s { s with curPos := w } := by
  constructor <;> first | rfl | exact ⟨rfl, rfl, rfl, rfl⟩ | exact ⟨rfl, rfl, rfl, rfl, rfl⟩

theorem State.sfc_same (s : State) (f : Sfc) : SameButFrame s { s with sfc := f } := by
  constructor <;> first | rfl | exact ⟨rfl, rfl, rfl, rfl⟩ | exact ⟨rfl, rfl, rfl, rfl, rfl⟩

theorem State.noteOvf_same (s : State) (o : Bool) (n : Nat) :
    SameButFrame s { s.noteOvf o with draws := n } := by
  constructor <;> first | rfl | exact ⟨rfl, rfl, rfl, rfl⟩ | exact ⟨rfl, rfl, rfl, rfl, rfl⟩

theorem State.writePixelThen_same (s : State) (x y : Nat) (v : Word) (k : State → State)
    (hk : ∀ t, SameButFrame t (k t)) : SameButFrame s (s.writePixelThen x y v k) := by
  rcases s.writePixelThen_cases x y v k with ⟨-, h⟩ | ⟨-, h⟩ <;> rw [h]
  · exact (s.stored_same _ s.draws).trans (hk _)
  · exact (s.stored_same _ _).trans (State.raiseSfcFault_same _ _)

theorem State.afterPaint_same (s : State) (x0 y x : Nat) : SameButFrame s (s.afterPaint x0 y x) := by
  simp only [State.afterPaint]
  split
  · exact s.sfc_same _
  · exact s.lateEnd_same _ _

theorem State.paintPixel_same (s : State) (x0 y x : Nat) : SameButFrame s (s.paintPixel x0 y x) :=
  s.writePixelThen_same _ _ _ _ fun t => t.afterPaint_same _ _ _

theorem State.renderPixel_same (s : State) (x y : Nat) : SameButFrame s (s.renderPixel x y) := by
  simp only [State.renderPixel]
  split
  · exact (s.noteOvf_same _ _).trans (State.raiseSfcFault_same _ _)
  · exact (s.noteOvf_same _ _).trans (State.writePixelThen_same _ _ _ _ _ State.advanceCursor_same)

theorem State.mirrorPixel_same (s : State) (x y : Nat) : SameButFrame s (s.mirrorPixel x y) := by
  simp only [State.mirrorPixel]
  split
  · exact (s.stored_same s.mem _).trans (State.raiseSfcFault_same _ _)
  · exact (s.stored_same s.mem _).trans (State.writePixelThen_same _ _ _ _ _ State.advanceCursor_same)

theorem State.reconPixel_same (s : State) (x r : Nat) : SameButFrame s (s.reconPixel x r) := by
  simp only [State.reconPixel]
  split
  · exact (s.stored_same s.mem _).trans (State.raiseSfcFault_same _ _)
  · exact (s.stored_same s.mem _).trans (State.writePixelThen_same _ _ _ _ _ State.advanceCursor_same)

theorem State.guarded_same (s : State) (x y : Nat) (op : State → State) (hop : ∀ t, SameButFrame t (op t)) :
    SameButFrame s (s.guarded x y op) := by
  rcases s.guarded_cases x y op with ⟨-, h⟩ | ⟨-, -, h⟩ | ⟨-, -, h⟩ <;> rw [h]
  · rcases State.startFault_cases { s with curPos := posWord y x } x y with ⟨z, -, -, -, h⟩ | ⟨-, h⟩ <;> rw [h]
    · exact ((s.curPos_same _).trans (State.sfc_same _ _)).trans (State.paintPixel_same _ _ _ _)
    · exact (s.curPos_same _).trans (State.lateEnd_same _ _ _)
  · exact (s.curPos_same _).trans (hop _)
  · exact s.curPos_same _

theorem State.preStep_same (s : State) : SameButFrame s s.preStep := by
  simp only [State.preStep]
  split
  · split
    · exact (s.sfc_same _).trans (State.raiseSfcFault_same _ _)
    · constructor <;> first | rfl | exact ⟨rfl, rfl, rfl, rfl⟩ | exact ⟨rfl, rfl, rfl, rfl, rfl⟩
  · exact (s.sfc_same _).trans (State.raiseSfcFault_same _ _)

theorem State.activeStep_same (s : State) : SameButFrame s s.activeStep := by
  simp only [State.activeStep]
  split
  · exact s.guarded_same _ _ _ fun t => t.renderPixel_same _ _
  · exact s.guarded_same _ _ _ fun t => t.mirrorPixel_same _ _
  · exact s.reconPixel_same _ _
  · exact s.paintPixel_same _ _ _
  · exact s.complete_same

/-- No turn of the frame controller touches the command engine, the operands, the results of commands,
IRQ_EN, LINE, the host or the flags CMDOVR, CMDDONE and FSTART. -/
theorem State.sfcTurn_same (s : State) : SameButFrame s s.sfcTurn := by
  simp only [State.sfcTurn]
  split
  · split
    · exact s.sfc_same _
    · exact .refl s
  · split
    · exact .refl s
    · exact s.sfc_same _
  · split
    · exact .refl s
    · exact s.preStep_same
  · exact s.activeStep_same

/-! ### How a turn of the active phase can end -/

/-- The frame goes on (R224): only the cursor, CUR_POS, OVF, memory and the draws may change. -/
structure GoesOn (s t : State) : Prop where
  sfc : t.sfc = { s.sfc with cursor := t.sfc.cursor }
  ctrl : t.ctrl = s.ctrl
  cfg : t.cfg = s.cfg
  constants : t.frameCos = s.frameCos ∧ t.frameSin = s.frameSin ∧ t.frameZoff = s.frameZoff
  counts : t.frameCount = s.frameCount ∧ t.lateCount = s.lateCount ∧ t.latePos = s.latePos
  flags : t.flags = { s.flags with ovf := t.flags.ovf }
  cause : t.cause = s.cause

/-- The frame stops on SfcFault(BUSERR) (R276): nothing of its end is done. -/
structure Faults (s t : State) : Prop where
  sfc : t.sfc = { s.sfc with phase := .off, lateLatch := false, cursor := t.sfc.cursor }
  ctrl : t.ctrl = { s.ctrl with en := false }
  cfg : t.cfg = s.cfg
  counts : t.frameCount = s.frameCount ∧ t.lateCount = s.lateCount ∧ t.latePos = s.latePos
  flags : t.flags = { s.flags with ovf := t.flags.ovf, sfcerr := true }
  cause : t.cause = .buserr

/-- The frame ends late (R220). -/
structure EndsLate (s t : State) : Prop where
  sfc : t.sfc = { s.sfc with
    phase := if s.ctrl.en then .wait else .off, lateLatch := false, cursor := t.sfc.cursor }
  ctrl : t.ctrl = s.ctrl
  counts : t.frameCount = s.frameCount ∧ t.lateCount = s.lateCount + 1#32
  flags : t.flags = { s.flags with late := true }
  cause : t.cause = s.cause

theorem State.writePixelThen_advance (s : State) (x y : Nat) (v : Word) :
    (∃ m, s.writePixelThen x y v State.advanceCursor
        = { s with mem := m, sfc := { s.sfc with cursor := s.sfc.snap.nextCursor s.sfc.cursor } }) ∨
    (∃ m n, s.writePixelThen x y v State.advanceCursor
        = State.raiseSfcFault { s with mem := m, draws := n } .buserr) := by
  rcases s.writePixelThen_cases x y v State.advanceCursor with ⟨-, h⟩ | ⟨-, h⟩ <;> rw [h]
  · exact .inl ⟨_, rfl⟩
  · exact .inr ⟨_, _, rfl⟩

/-- What a rendered pixel, a mirror copy or a reconstructed pixel leaves of the frame controller. -/
structure Moves (s t : State) : Prop where
  step : (GoesOn s t ∧ t.sfc.cursor = s.sfc.snap.nextCursor s.sfc.cursor) ∨ Faults s t

theorem State.moves_write {s u : State} (hs : u.sfc = s.sfc) (hc : u.ctrl = s.ctrl) (hg : u.cfg = s.cfg)
    (hk : u.frameCos = s.frameCos ∧ u.frameSin = s.frameSin ∧ u.frameZoff = s.frameZoff)
    (hn : u.frameCount = s.frameCount ∧ u.lateCount = s.lateCount ∧ u.latePos = s.latePos)
    (hf : u.flags = { s.flags with ovf := u.flags.ovf }) (ha : u.cause = s.cause) (x y : Nat) (v : Word) :
    Moves s (u.writePixelThen x y v State.advanceCursor) := by
  rcases u.writePixelThen_advance x y v with ⟨m, h⟩ | ⟨m, n, h⟩ <;> rw [h]
  · refine ⟨.inl ⟨⟨?_, hc, hg, hk, hn, hf, ha⟩, ?_⟩⟩ <;> simp only [hs]
  · refine ⟨.inr ⟨?_, ?_, hg, hn, ?_, rfl⟩⟩ <;> simp only [State.raiseSfcFault]
    · rw [hs]
    · rw [hc]
    · rw [hf]

theorem State.moves_fault {s u : State} (hs : u.sfc = s.sfc) (hc : u.ctrl = s.ctrl) (hg : u.cfg = s.cfg)
    (hn : u.frameCount = s.frameCount ∧ u.lateCount = s.lateCount ∧ u.latePos = s.latePos)
    (hf : u.flags = { s.flags with ovf := u.flags.ovf }) : Moves s (u.raiseSfcFault .buserr) := by
  refine ⟨.inr ⟨?_, ?_, hg, hn, ?_, rfl⟩⟩ <;> simp only [State.raiseSfcFault]
  · rw [hs]
  · rw [hc]
  · rw [hf]

theorem State.renderPixel_moves (s : State) (x y : Nat) : Moves s (s.renderPixel x y) := by
  simp only [State.renderPixel]
  split
  · exact State.moves_fault rfl rfl rfl ⟨rfl, rfl, rfl⟩ rfl
  · apply State.moves_write <;> first | rfl | exact ⟨rfl, rfl, rfl⟩

theorem State.mirrorPixel_moves (s : State) (x y : Nat) : Moves s (s.mirrorPixel x y) := by
  simp only [State.mirrorPixel]
  split
  · exact State.moves_fault rfl rfl rfl ⟨rfl, rfl, rfl⟩ rfl
  · apply State.moves_write <;> first | rfl | exact ⟨rfl, rfl, rfl⟩

theorem State.reconPixel_moves (s : State) (x r : Nat) : Moves s (s.reconPixel x r) := by
  simp only [State.reconPixel]
  split
  · exact State.moves_fault rfl rfl rfl ⟨rfl, rfl, rfl⟩ rfl
  · apply State.moves_write <;> first | rfl | exact ⟨rfl, rfl, rfl⟩

/-- Painting one pixel of a late row: on to the next unwritten pixel, or the frame ends late, or faults. -/
theorem State.paintPixel_cases (s : State) (x0 y x : Nat) :
    (GoesOn s (s.paintPixel x0 y x) ∧ ∃ z, x < z ∧ z < s.sfc.snap.w ∧ s.sfc.snap.unwritten x0 y z = true
        ∧ (s.paintPixel x0 y x).sfc.cursor = ⟨.paint x0, y, z⟩)
      ∨ EndsLate s (s.paintPixel x0 y x) ∨ Faults s (s.paintPixel x0 y x) := by
  unfold State.paintPixel
  rcases s.writePixelThen_cases x y (s.sfc.snap.cfg.faultColor.setWidth 32) (fun t => t.afterPaint x0 y x)
    with ⟨-, h⟩ | ⟨-, h⟩ <;> rw [h]
  · simp only [State.afterPaint]
    split
    next z hz =>
      obtain ⟨h1, h2, h3, -⟩ := nextCol_some hz
      exact .inl ⟨⟨rfl, rfl, rfl, ⟨rfl, rfl, rfl⟩, ⟨rfl, rfl, rfl⟩, rfl, rfl⟩, z, by omega, by omega, h3, rfl⟩
    · exact .inr (.inl ⟨rfl, rfl, ⟨rfl, rfl⟩, rfl, rfl⟩)
  · exact .inr (.inr ⟨rfl, rfl, rfl, ⟨rfl, rfl, rfl⟩, rfl, rfl⟩)

/-- A fault that begins: the frame goes on painting the row, or ends late, or faults. -/
theorem State.startFault_ends (s : State) (x0 y : Nat) :
    (GoesOn s (s.startFault x0 y) ∧ ∃ z, z < s.sfc.snap.w ∧ s.sfc.snap.unwritten x0 y z = true
        ∧ (s.startFault x0 y).sfc.cursor = ⟨.paint x0, y, z⟩)
      ∨ EndsLate s (s.startFault x0 y) ∨ Faults s (s.startFault x0 y) := by
  rcases s.startFault_cases x0 y with ⟨x, -, -, -, h⟩ | ⟨-, h⟩ <;> rw [h]
  · rcases State.paintPixel_cases { s with sfc := { s.sfc with cursor := ⟨.paint x0, y, x⟩ } } x0 y x with
      ⟨g, z, -, h2, h3, h4⟩ | g | g
    · exact .inl ⟨⟨g.sfc, g.ctrl, g.cfg, g.constants, g.counts, g.flags, g.cause⟩, z, h2, h3, h4⟩
    · exact .inr (.inl ⟨g.sfc, g.ctrl, g.counts, g.flags, g.cause⟩)
    · exact .inr (.inr ⟨g.sfc, g.ctrl, g.cfg, g.counts, g.flags, g.cause⟩)
  · exact .inr (.inl ⟨rfl, rfl, ⟨rfl, rfl⟩, rfl, rfl⟩)

/-- Everything a turn of the active phase can do to the frame controller (R214 to R224): a held SYNC, the
next pixel operation, painting, the end of the frame, on time or late, or a fault. -/
theorem State.activeStep_cases (s : State) :
    (GoesOn s s.activeStep ∧ (s.activeStep.sfc.cursor = s.sfc.cursor
        ∨ s.activeStep.sfc.cursor = s.sfc.snap.nextCursor s.sfc.cursor
        ∨ ∃ x0 z, (s.sfc.cursor.sub = .paint x0
            ∨ (x0 = s.sfc.cursor.x ∧ (s.sfc.cursor.sub = .render ∨ s.sfc.cursor.sub = .mirror)))
          ∧ z < s.sfc.snap.w ∧ s.sfc.snap.unwritten x0 s.sfc.cursor.y z = true
          ∧ s.activeStep.sfc.cursor = ⟨.paint x0, s.sfc.cursor.y, z⟩))
      ∨ (s.sfc.cursor.sub = .finish ∧ s.activeStep = s.complete)
      ∨ EndsLate s s.activeStep ∨ Faults s s.activeStep := by
  have hmove : ∀ t, Moves s t → (GoesOn s t ∧ (t.sfc.cursor = s.sfc.cursor
        ∨ t.sfc.cursor = s.sfc.snap.nextCursor s.sfc.cursor
        ∨ ∃ x0 z, (s.sfc.cursor.sub = .paint x0
            ∨ (x0 = s.sfc.cursor.x ∧ (s.sfc.cursor.sub = .render ∨ s.sfc.cursor.sub = .mirror)))
          ∧ z < s.sfc.snap.w ∧ s.sfc.snap.unwritten x0 s.sfc.cursor.y z = true
          ∧ t.sfc.cursor = ⟨.paint x0, s.sfc.cursor.y, z⟩))
      ∨ EndsLate s t ∨ Faults s t := by
    rintro t ⟨⟨g, hc⟩ | g⟩
    · exact .inl ⟨g, .inr (.inl hc)⟩
    · exact .inr (.inr g)
  have hguard : ∀ op : State → State, (s.sfc.cursor.sub = .render ∨ s.sfc.cursor.sub = .mirror) →
      (∀ u : State, Moves u (op u)) →
      let t := s.guarded s.sfc.cursor.x s.sfc.cursor.y op
      (GoesOn s t ∧ (t.sfc.cursor = s.sfc.cursor
        ∨ t.sfc.cursor = s.sfc.snap.nextCursor s.sfc.cursor
        ∨ ∃ x0 z, (s.sfc.cursor.sub = .paint x0
            ∨ (x0 = s.sfc.cursor.x ∧ (s.sfc.cursor.sub = .render ∨ s.sfc.cursor.sub = .mirror)))
          ∧ z < s.sfc.snap.w ∧ s.sfc.snap.unwritten x0 s.sfc.cursor.y z = true
          ∧ t.sfc.cursor = ⟨.paint x0, s.sfc.cursor.y, z⟩))
      ∨ EndsLate s t ∨ Faults s t := by
    intro op hsub hop
    rcases s.guarded_cases s.sfc.cursor.x s.sfc.cursor.y op with ⟨-, h⟩ | ⟨-, -, h⟩ | ⟨-, -, h⟩ <;>
      simp only [h]
    · rcases State.startFault_ends { s with curPos := posWord s.sfc.cursor.y s.sfc.cursor.x }
        s.sfc.cursor.x s.sfc.cursor.y with ⟨g, z, h2, h3, h4⟩ | g | g
      · exact .inl ⟨⟨g.sfc, g.ctrl, g.cfg, g.constants, g.counts, g.flags, g.cause⟩,
          .inr (.inr ⟨_, z, .inr ⟨rfl, hsub⟩, h2, h3, h4⟩)⟩
      · exact .inr (.inl ⟨g.sfc, g.ctrl, g.counts, g.flags, g.cause⟩)
      · exact .inr (.inr ⟨g.sfc, g.ctrl, g.cfg, g.counts, g.flags, g.cause⟩)
    · obtain ⟨⟨g, hc⟩ | g⟩ := hop { s with curPos := posWord s.sfc.cursor.y s.sfc.cursor.x }
      · exact .inl ⟨⟨g.sfc, g.ctrl, g.cfg, g.constants, g.counts, g.flags, g.cause⟩, .inr (.inl hc)⟩
      · exact .inr (.inr ⟨g.sfc, g.ctrl, g.cfg, g.counts, g.flags, g.cause⟩)
    · exact .inl ⟨⟨rfl, rfl, rfl, ⟨rfl, rfl, rfl⟩, ⟨rfl, rfl, rfl⟩, rfl, rfl⟩, .inl (by simp)⟩
  cases hsub : s.sfc.cursor.sub with
  | render =>
    have he : s.activeStep = s.guarded s.sfc.cursor.x s.sfc.cursor.y
        (fun t => t.renderPixel s.sfc.cursor.x s.sfc.cursor.y) := by simp only [State.activeStep, hsub]
    rw [he]
    rcases hguard _ (.inl hsub) (fun u => u.renderPixel_moves _ _) with h | h | h
    · exact .inl (by simpa only [hsub] using h)
    · exact .inr (.inr (.inl h))
    · exact .inr (.inr (.inr h))
  | mirror =>
    have he : s.activeStep = s.guarded s.sfc.cursor.x s.sfc.cursor.y
        (fun t => t.mirrorPixel s.sfc.cursor.x s.sfc.cursor.y) := by simp only [State.activeStep, hsub]
    rw [he]
    rcases hguard _ (.inr hsub) (fun u => u.mirrorPixel_moves _ _) with h | h | h
    · exact .inl (by simpa only [hsub] using h)
    · exact .inr (.inr (.inl h))
    · exact .inr (.inr (.inr h))
  | recon =>
    have he : s.activeStep = s.reconPixel s.sfc.cursor.x (s.sfc.cursor.y - 1) := by
      simp only [State.activeStep, hsub]
    rw [he]
    rcases hmove _ (s.reconPixel_moves _ _) with h | h | h
    · exact .inl (by simpa only [hsub] using h)
    · exact .inr (.inr (.inl h))
    · exact .inr (.inr (.inr h))
  | paint x0 =>
    have he : s.activeStep = s.paintPixel x0 s.sfc.cursor.y s.sfc.cursor.x := by
      simp only [State.activeStep, hsub]
    rw [he]
    rcases s.paintPixel_cases x0 s.sfc.cursor.y s.sfc.cursor.x with ⟨g, z, -, h2, h3, h4⟩ | h | h
    · exact .inl ⟨g, .inr (.inr ⟨x0, z, .inl (by simp), h2, h3, h4⟩)⟩
    · exact .inr (.inr (.inl h))
    · exact .inr (.inr (.inr h))
  | finish => exact .inr (.inl ⟨rfl, by simp only [State.activeStep, hsub]⟩)

end Sys2Proof.Machine
end

