-- ==== Sys2Proof/Laws/PerInstr.lean ====
section
/-! SUPPORT. Per-instruction lemmas over the syntax: the family `Encoding`. -/

namespace Sys2Proof.Laws.Encoding

/-- R100, R103: the command is well formed, its word has RSVD zero, and its opcode is in the map. -/
def Statement (i : Instr) : Prop :=
  i.wellFormed = true ∧ (encode i).extractLsb' 8 24 = 0#24 ∧ (encode i).extractLsb' 0 8 = opcode i
    ∧ decodeOpcode (opcode i) = some i

theorem nop : Statement .nop := by unfold Statement; decide
theorem cossin : Statement .cossin := by unfold Statement; decide
theorem qexp : Statement .qexp := by unfold Statement; decide
theorem isqrt : Statement .isqrt := by unfold Statement; decide
theorem rot2d : Statement .rot2d := by unfold Statement; decide
theorem packyz : Statement .packyz := by unfold Statement; decide
theorem lutidx : Statement .lutidx := by unfold Statement; decide
theorem lutfetch : Statement .lutfetch := by unfold Statement; decide
theorem lutsample : Statement .lutsample := by unfold Statement; decide
theorem march : Statement .march := by unfold Statement; decide
theorem framepre : Statement .framepre := by unfold Statement; decide
theorem pixel : Statement .pixel := by unfold Statement; decide

end Sys2Proof.Laws.Encoding
end

