-- ==== Sys2Proof/Laws/Step.lean ====
section
/-! SUPPORT. Laws of the host's accesses and of turns (44_register_access.md R250 to R258): what a
register write, a host access and any turn leave unchanged, what they do to the phase and the latch, and
which bytes a frame may touch (20_memory.md R80). -/

namespace Sys2Proof.Machine

/-- What no host access changes: results, counters, constants, the build, memory, LINE and the plan. -/
structure SameButHost (s t : State) : Prop where
  build : t.build = s.build
  cause : t.cause = s.cause
  results : t.res0 = s.res0 ∧ t.res1 = s.res1 ∧ t.accR = s.accR ∧ t.accG = s.accG ∧ t.accB = s.accB
  constants : t.frameCos = s.frameCos ∧ t.frameSin = s.frameSin ∧ t.frameZoff = s.frameZoff
  positions : t.curPos = s.curPos ∧ t.latePos = s.latePos
  counts : t.frameCount = s.frameCount ∧ t.lateCount = s.lateCount
  line : t.line = s.line
  mem : t.mem = s.mem
  sched : t.sched = s.sched
  draws : t.draws = s.draws

theorem SameButHost.refl (s : State) : SameButHost s s := by
  constructor <;> simp

/-- The four outcomes of a CMD write (R254). -/
theorem State.submit_cases (s : State) (w : Word) :
    (s.busy = true ∧ s.submit w = { s with flags := { s.flags with cmdovr := true } }) ∨
    (s.busy = false ∧ (s.sfc.phase = .pre ∨ s.sfc.phase = .active) ∧ s.submit w = s.reject .conflict) ∨
    (s.busy = false ∧ (s.sfc.phase = .off ∨ s.sfc.phase = .wait) ∧ (∃ e, decode w = .error e)
      ∧ s.submit w = s.reject .illegal) ∨
    (s.busy = false ∧ (s.sfc.phase = .off ∨ s.sfc.phase = .wait) ∧ ∃ i, decode w = .ok i ∧ s.submit w = s.accept i) := by
  unfold State.submit
  cases hb : s.busy
  · cases hp : s.sfc.phase <;> cases hd : decode w <;> simp
  · exact .inl ⟨rfl, by simp⟩

/-- A register write changes no read-only register, no memory and no input (R23, R252 to R254, R258). -/
theorem State.writeReg_same (s : State) (r : Reg) (v : Word) : SameButHost s (s.writeReg r v) := by
  cases r
  case cmd =>
    simp only [State.writeReg]
    rcases s.submit_cases v with ⟨-, h⟩ | ⟨-, -, h⟩ | ⟨-, -, -, h⟩ | ⟨-, -, i, -, h⟩ <;> rw [h] <;>
      constructor <;> simp [State.reject, State.accept]
  all_goals constructor <;> simp [State.writeReg]

/-- What a register write does to CTRL and the frame controller (R258): a CTRL write sets EN and moves
the phase between OFF and WAIT; no other write touches either. -/
theorem State.writeReg_phase (s : State) (r : Reg) (v : Word) :
    ((s.writeReg r v).sfc = { s.sfc with phase := s.sfc.phase.withEnable (s.writeReg r v).ctrl.en }) ∨
    ((s.writeReg r v).ctrl = s.ctrl ∧ (s.writeReg r v).sfc = s.sfc) := by
  cases r
  case ctrl => exact .inl rfl
  case cmd =>
    right
    simp only [State.writeReg]
    rcases s.submit_cases v with ⟨-, h⟩ | ⟨-, -, h⟩ | ⟨-, -, -, h⟩ | ⟨-, -, i, -, h⟩ <;> rw [h] <;>
      simp [State.reject, State.accept]
  all_goals exact .inr ⟨rfl, rfl⟩

/-- What a register write does to the latch (R254): nothing, or, in OFF and WAIT with no command busy,
a command is accepted. -/
theorem State.writeReg_latch (s : State) (r : Reg) (v : Word) :
    (s.writeReg r v).latch = s.latch ∨
    (s.latch = none ∧ (s.sfc.phase = .off ∨ s.sfc.phase = .wait) ∧ (s.writeReg r v).sfc = s.sfc) := by
  cases r
  case cmd =>
    simp only [State.writeReg]
    rcases s.submit_cases v with ⟨-, h⟩ | ⟨-, -, h⟩ | ⟨-, -, -, h⟩ | ⟨hb, hp, i, -, h⟩ <;> rw [h]
    · exact .inl rfl
    · exact .inl rfl
    · exact .inl rfl
    · exact .inr ⟨by simpa [State.busy] using hb, hp, rfl⟩
  all_goals exact .inl rfl

/-- Everything a host write can be (R250, R252, R57): an access that leaves the JRB as it is, a register
write, or a memory write left pending. -/
theorem State.hostWrite_cases (s : State) (a : Word) (w : Width) (v : Word) :
    (∃ p, s.hostWrite a w v = { s with port := p }) ∨
    (∃ r p, s.hostWrite a w v = { s.writeReg r v with port := p }) ∨
    (Build.windowOffset s.build a = none ∧
      s.hostWrite a w v = { s with pending := s.pending ++ writtenCells w.bytes a v, port := .done }) := by
  unfold State.hostWrite
  split
  · split
    · split
      · exact .inr (.inl ⟨_, _, rfl⟩)
      · exact .inl ⟨_, rfl⟩
    · exact .inl ⟨_, rfl⟩
  next h => exact .inr (.inr ⟨h, rfl⟩)

/-- A host read changes the port's answer only (R251). -/
theorem State.hostRead_cases (s : State) (a : Word) (w : Width) : ∃ p, s.hostRead a w = { s with port := p } := by
  unfold State.hostRead
  split
  · split
    · split <;> exact ⟨_, rfl⟩
    · exact ⟨_, rfl⟩
  · exact ⟨_, rfl⟩

/-- Everything a turn of the host program can be (R110, R111): nothing, a read, or a write. -/
theorem State.hostProgramTurn_cases (s : State) :
    ∃ p, (∃ q, s.hostProgramTurn = { s with program := p, port := q }) ∨
      (∃ a v, s.hostProgramTurn = ({ s with program := p } : State).hostWrite a .word v) := by
  unfold State.hostProgramTurn
  split
  · exact ⟨s.program, .inl ⟨s.port, rfl⟩⟩
  · exact ⟨_, .inr ⟨_, _, rfl⟩⟩
  next off rest _ =>
    obtain ⟨q, h⟩ := State.hostRead_cases { s with program := rest } (s.build.blockBase + off) .word
    exact ⟨rest, .inl ⟨q, h⟩⟩
  next bit v rest _ =>
    obtain ⟨q, h⟩ := s.hostRead_cases (s.build.blockBase + Reg.status.offset) .word
    dsimp only
    split
    · exact ⟨rest, .inl ⟨q, by rw [h]⟩⟩
    · exact ⟨s.program, .inl ⟨q, by rw [h]⟩⟩

theorem State.hostWrite_same (s : State) (a : Word) (w : Width) (v : Word) : SameButHost s (s.hostWrite a w v) := by
  rcases s.hostWrite_cases a w v with ⟨p, h⟩ | ⟨r, p, h⟩ | ⟨-, h⟩ <;> rw [h]
  · constructor <;> simp
  · obtain ⟨h1, h2, h3, h4, h5, h6, h7, h8, h9, h10⟩ := s.writeReg_same r v
    exact ⟨h1, h2, h3, h4, h5, h6, h7, h8, h9, h10⟩
  · constructor <;> simp

theorem State.hostProgramTurn_same (s : State) : SameButHost s s.hostProgramTurn := by
  obtain ⟨p, ⟨q, h⟩ | ⟨a, v, h⟩⟩ := s.hostProgramTurn_cases <;> rw [h]
  · constructor <;> simp
  · obtain ⟨h1, h2, h3, h4, h5, h6, h7, h8, h9, h10⟩ :=
      State.hostWrite_same { s with program := p } a .word v
    exact ⟨h1, h2, h3, h4, h5, h6, h7, h8, h9, h10⟩

/-- What a host access does to the phase, EN and the latch: as a register write does, or nothing. -/
structure HostMoves (s t : State) : Prop where
  phase : t.sfc = { s.sfc with phase := s.sfc.phase.withEnable t.ctrl.en } ∨ (t.ctrl = s.ctrl ∧ t.sfc = s.sfc)
  latch : t.latch = s.latch ∨ (s.latch = none ∧ (s.sfc.phase = .off ∨ s.sfc.phase = .wait) ∧ t.sfc = s.sfc)

theorem State.hostWrite_moves (s : State) (a : Word) (w : Width) (v : Word) : HostMoves s (s.hostWrite a w v) := by
  rcases s.hostWrite_cases a w v with ⟨p, h⟩ | ⟨r, p, h⟩ | ⟨-, h⟩ <;> rw [h]
  · exact ⟨.inr ⟨rfl, rfl⟩, .inl rfl⟩
  · exact ⟨s.writeReg_phase r v, s.writeReg_latch r v⟩
  · exact ⟨.inr ⟨rfl, rfl⟩, .inl rfl⟩

theorem State.hostProgramTurn_moves (s : State) : HostMoves s s.hostProgramTurn := by
  obtain ⟨p, ⟨q, h⟩ | ⟨a, v, h⟩⟩ := s.hostProgramTurn_cases <;> rw [h]
  · exact ⟨.inr ⟨rfl, rfl⟩, .inl rfl⟩
  · obtain ⟨h1, h2⟩ := State.hostWrite_moves { s with program := p } a .word v
    exact ⟨h1, h2⟩

/-- Everything the CMD agent's turn can be (R256): a finished command, or, with none BUSY, nothing. -/
theorem cmdTurn_cases {s t : State} (h : cmdTurn s = .next t) : SameButResults s t ∨ t = s := by
  unfold cmdTurn at h
  split at h
  next l _ =>
    obtain ⟨u, hu, hs⟩ := exec_same l.cmd s
    rw [hu] at h
    cases h
    exact .inl hs
  · cases h
    exact .inr rfl

/-- The schedule gives a turn and changes nothing else but itself and the draws (log 1). -/
theorem nextTurn_state (s : State) : ∃ q n, (nextTurn s).2 = { s with sched := q, draws := n } := by
  unfold nextTurn
  split
  · exact ⟨_, _, rfl⟩
  · exact ⟨s.sched, _, rfl⟩

/-- A step is one turn on a state that differs in the schedule and the draws only (R257). -/
theorem step_is_turn {s t : State} (h : step s = .next t) :
    ∃ u q n, takeTurn u { s with sched := q, draws := n } = .next t := by
  obtain ⟨q, n, hs⟩ := nextTurn_state s
  refine ⟨(nextTurn s).1, q, n, ?_⟩
  rw [← hs]
  exact h

/-- TICK changes LINE, FSTART, the phase and late_latch only (R206). -/
theorem State.tick_cases (s : State) : ∃ b p l, s.tick = { s with
    line := 0#16, flags := { s.flags with fstart := b }, sfc := { s.sfc with phase := p, lateLatch := l } } := by
  unfold State.tick
  split
  · exact ⟨s.flags.fstart, s.sfc.phase, s.sfc.lateLatch, rfl⟩
  · exact ⟨_, _, _, rfl⟩
  · exact ⟨s.flags.fstart, s.sfc.phase, _, rfl⟩
  · exact ⟨s.flags.fstart, s.sfc.phase, _, rfl⟩

/-- LINE rising changes LINE only (R205). -/
theorem State.lineUp_cases (s : State) : ∃ n, s.lineUp = { s with line := n } := by
  unfold State.lineUp
  split
  · exact ⟨_, rfl⟩
  · exact ⟨s.line, rfl⟩

/-- Where a byte of a pixel lies from FB_BASE: the offset never wraps (R80, R78). -/
theorem Snap.fbOffset (sn : Snap) {x y k : Nat} (hx : x < sn.w) (hy : y < sn.h) (hk : k < sn.bpp) (a : Nat) :
    BitVec.ofNat 32 a = sn.fbAddr x y + BitVec.ofNat 32 k ↔
      (BitVec.ofNat 32 a - sn.cfg.fbBase).toNat = y * sn.cfg.fbStride.toNat + (x * sn.bpp + k) := by
  have hw : sn.w < 2 ^ 16 := sn.cfg.fbW.isLt
  have hh : sn.h < 2 ^ 16 := sn.cfg.fbH.isLt
  have hb : sn.bpp ≤ 2 := by unfold Snap.bpp; cases sn.pixfmt <;> decide
  have h1 : y * sn.cfg.fbStride.toNat ≤ 65534 * 65535 :=
    Nat.mul_le_mul (by omega) (by have := sn.cfg.fbStride.isLt; omega)
  have h2 : x * sn.bpp ≤ 65534 * 2 := Nat.mul_le_mul (by omega) hb
  have h3 := sn.cfg.fbBase.isLt
  rw [← BitVec.toNat_inj]
  simp only [Snap.fbAddr, BitVec.toNat_add, BitVec.toNat_sub, BitVec.toNat_ofNat]
  omega

/-- The bytes a frame may touch are exactly those of its pixels, at FBADDR (R80, R84). -/
theorem inFramebuffer_iff (sn : Snap) (a : Nat) : inFramebuffer sn.pixfmt sn.cfg a = true ↔
    ∃ x y k, x < sn.w ∧ y < sn.h ∧ k < sn.bpp ∧ BitVec.ofNat 32 a = sn.fbAddr x y + BitVec.ofNat 32 k := by
  have hb : 0 < sn.bpp := Width.bytes_pos _
  simp only [inFramebuffer, Bool.and_eq_true, decide_eq_true_eq]
  change 0 < sn.h ∧ _ - min (_ / _) (sn.h - 1) * _ < sn.w * sn.bpp ↔ _
  generalize hd : (BitVec.ofNat 32 a - sn.cfg.fbBase).toNat = d
  constructor
  · rintro ⟨hh, hr⟩
    generalize hy : min (d / sn.cfg.fbStride.toNat) (sn.h - 1) = y at hr
    have hle : y * sn.cfg.fbStride.toNat ≤ d :=
      Nat.le_trans (Nat.mul_le_mul_right _ (hy ▸ Nat.min_le_left _ _)) (Nat.div_mul_le_self _ _)
    have hx := Nat.div_lt_of_lt_mul (Nat.mul_comm sn.w sn.bpp ▸ hr)
    have hk := Nat.mod_lt (d - y * sn.cfg.fbStride.toNat) hb
    refine ⟨_, y, _, hx, by omega, hk, (sn.fbOffset hx (by omega) hk a).mpr ?_⟩
    rw [Nat.div_add_mod']
    omega
  · rintro ⟨x, y, k, hx, hy, hk, ha⟩
    have ho := (sn.fbOffset hx hy hk a).mp ha
    rw [hd] at ho
    refine ⟨by omega, ?_⟩
    have hrow : x * sn.bpp + k < sn.w * sn.bpp := by
      have := Nat.mul_le_mul_right sn.bpp (show x + 1 ≤ sn.w from hx)
      rw [Nat.add_mul] at this
      omega
    have hlast : y * sn.cfg.fbStride.toNat ≤ min (d / sn.cfg.fbStride.toNat) (sn.h - 1) * sn.cfg.fbStride.toNat := by
      rcases Nat.eq_zero_or_pos sn.cfg.fbStride.toNat with h0 | h0
      · simp [h0]
      · exact Nat.mul_le_mul_right _ (Nat.le_min.mpr ⟨(Nat.le_div_iff_mul_le h0).mpr (by omega), by omega⟩)
    omega

end Sys2Proof.Machine
end

