-- ==== Sys2Proof/Tests/Slice0.lean ====
section
/-! SUPPORT. Tests: ill-formed lines refused, command words written bit by bit, one-step results whose
values come from 95_test_vectors.md, and for each claim with hypotheses a state that meets them. -/

namespace Sys2Proof.Tests

open Sys2Proof.Machine Sys2Proof.Claims

/-! ### WellFormed -/

theorem test_wellFormed_line : HostLine.wellFormed (.call .rot2d [1#32, 2#32, 3#32, 4#32]) = true := by decide
theorem test_waitf_bit_refused : HostLine.wellFormed (.waitf 4) = false := by decide
theorem test_clr_none_refused : HostLine.wellFormed (.clr []) = false := by decide
theorem test_clr_busy_refused : HostLine.wellFormed (.clr [3, 0]) = false := by decide
theorem test_call_no_operand_refused : HostLine.wellFormed (.call .isqrt []) = false := by decide
theorem test_call_five_operands_refused :
    HostLine.wellFormed (.call .rot2d [1#32, 2#32, 3#32, 4#32, 5#32]) = false := by decide

/-! ### Decode: every opcode of R103, from the layout of R100 -/

theorem test_decode_nop : decode 0b00000000000000000000000000000000#32 = .ok .nop := by decide
theorem test_decode_cossin : decode 0b00000000000000000000000000000001#32 = .ok .cossin := by decide
theorem test_decode_qexp : decode 0b00000000000000000000000000000010#32 = .ok .qexp := by decide
theorem test_decode_isqrt : decode 0b00000000000000000000000000000011#32 = .ok .isqrt := by decide
theorem test_decode_rot2d : decode 0b00000000000000000000000000000100#32 = .ok .rot2d := by decide
theorem test_decode_packyz : decode 0b00000000000000000000000000000101#32 = .ok .packyz := by decide
theorem test_decode_lutidx : decode 0b00000000000000000000000000000110#32 = .ok .lutidx := by decide
theorem test_decode_lutfetch : decode 0b00000000000000000000000000000111#32 = .ok .lutfetch := by decide
theorem test_decode_lutsample : decode 0b00000000000000000000000000001000#32 = .ok .lutsample := by decide
theorem test_decode_march : decode 0b00000000000000000000000000001001#32 = .ok .march := by decide
theorem test_decode_framepre : decode 0b00000000000000000000000000001010#32 = .ok .framepre := by decide
theorem test_decode_pixel : decode 0b00000000000000000000000000001011#32 = .ok .pixel := by decide
theorem test_decode_reserved_opcodes :
    decode 0x0000000C#32 = .error .reservedOpcode ∧ decode 0x000000FF#32 = .error .reservedOpcode := by decide
theorem test_decode_reserved_bits :
    decode 0x00000101#32 = .error .reservedBits ∧ decode 0x80000001#32 = .error .reservedBits := by decide
theorem test_decode_bytes : decodeBytes [0x03#8, 0#8, 0#8, 0#8, 0xAA#8] = .ok (.isqrt, [0xAA#8])
    ∧ decodeBytes [0x03#8, 0#8, 0#8] = .error .truncated := by decide

/-! ### Helpers -/

/-- The reset state with operands. -/
def ops (a b c d : Word) : State := { State.reset with opa := a, opb := b, opc := c, opd := d }

/-- The state after a command on `s`. -/
def after (i : Instr) (s : State) : State :=
  match exec i s with
  | .next t => t
  | .fault _ => s
  | .refused _ => s

/-- The state after a turn. -/
def turn (u : Turn) (s : State) : State :=
  match takeTurn u s with
  | .next t => t
  | .fault _ => s
  | .refused _ => s

/-- LUT_BASE = 0xC0000000. -/
def lutCfg : Cfg := { Cfg.reset with lutBase := 0x30000000#30 }

/-- The entry 0x00FF8040 at index 0x00102040 of the table at 0xC0000000. -/
def hitTable : Memory := [(0xC0408100, 0x40#8), (0xC0408101, 0x80#8), (0xC0408102, 0xFF#8), (0xC0408103, 0x00#8)]

/-- The three entries of table T3 that its trace reads. -/
def table3 : Memory :=
  Memory.store (Memory.store (Memory.store [] 4 0xC0408100#32 0x01100000#32) 4 0xC0408104#32 0x01100000#32)
    4 0xC0408108#32 0x00FFFFFF#32

/-- The reset state with a table and operands. -/
def withTable (m : Memory) (s : State) : State := { s with mem := m, cfg := lutCfg }

/-- The state with one address whose accesses get an error response. -/
def refusing (a : Nat) (w : Width) (k : AccessKind) (s : State) : State :=
  { s with build := { s.build with denied := [⟨a, a, w, k⟩] } }

/-- The 4 by 2 checkerboard frame of program P3 as a snapshot, with mirror on or off. -/
def frameSnap (checker mirror : Bool) : Snap :=
  ⟨checker, mirror, .rgb565,
    { lutCfg with fbBase := 0xC0800000#32, fbStride := 8#16, fbW := 4#16, fbH := 2#16, pixStep := 4096#32 }⟩

/-- The active phase of that frame at a cursor, LINE past the last row. -/
def frameAt (checker mirror : Bool) (c : Cursor) (m : Memory) : State :=
  { State.reset with
    ctrl := ⟨true, checker, mirror, .rgb565⟩
    line := 2#16
    mem := m
    sfc := { Sfc.reset with phase := .active, snap := frameSnap checker mirror, fcos := 4096#32, cursor := c } }

/-- The rendered pixels of P3 in memory: (0,0), (2,0), (1,1), (3,1). -/
def rendered3 : Memory :=
  Memory.store (Memory.store (Memory.store (Memory.store [] 2 0xC0800000#32 0x0000#32)
    2 0xC0800004#32 0x7800#32) 2 0xC080000A#32 0x39E0#32) 2 0xC080000E#32 0xB1E0#32

/-- The PRE phase with a size. -/
def preAt (w h : Half) (rotFrame : Half) (rotStep : Word) : State :=
  { State.reset with
    ctrl := ⟨true, false, false, .l8⟩
    cfg := { Cfg.reset with fbW := w, fbH := h, fbStride := 8#16, rotFrame := rotFrame, rotStep := rotStep }
    sfc := { Sfc.reset with phase := .pre } }

/-! ### One step of each command (V1 to V12) -/

theorem test_nop : (after .nop State.reset).statusWord = 0x00000008#32 := by decide
theorem test_cossin_quadrant1 : (after .cossin (ops 5000#32 0#32 0#32 0#32)).res0 = 0xFFFFF9B7#32
    ∧ (after .cossin (ops 5000#32 0#32 0#32 0#32)).res1 = 3897#32 := by decide
theorem test_cossin_domain : (after .cossin (ops 16384#32 0#32 0#32 0#32)).statusWord = 0x00000028#32 := by decide
theorem test_qexp_largest : (after .qexp (ops 53940#32 0#32 0#32 0#32)).res0 = 0x7FF7AADF#32 := by decide
theorem test_qexp_saturates : (after .qexp (ops 53941#32 0#32 0#32 0#32)).res0 = 0x7FFFFFFF#32 := by decide
theorem test_isqrt_largest : (after .isqrt (ops 0x7FFFFFFF#32 0#32 0#32 0#32)).res0 = 46340#32 := by decide
theorem test_isqrt_floor : (after .isqrt (ops 24#32 0#32 0#32 0#32)).res0 = 4#32 := by decide
theorem test_rot2d_floor : (after .rot2d (ops 0xFFFFFFFF#32 0#32 1#32 0#32)).res0 = 0xFFFFFFFF#32
    ∧ (after .rot2d (ops 0xFFFFFFFF#32 0#32 1#32 0#32)).flags.ovf = false := by decide
theorem test_rot2d_overflow :
    (after .rot2d (ops 0x7FFFFFFF#32 0x7FFFFFFF#32 4096#32 4096#32)).res0 = 0xFFFFFFFE#32
    ∧ (after .rot2d (ops 0x7FFFFFFF#32 0x7FFFFFFF#32 4096#32 4096#32)).flags.ovf = true := by decide
theorem test_packyz_borrow : (after .packyz (ops 2048#32 0xFFFFF800#32 0#32 0#32)).res0 = 0x07FFF800#32 := by decide
theorem test_packyz_lost_bits : (after .packyz (ops 0x12345#32 0x10000#32 0#32 0#32)).res0 = 0x23460000#32 := by decide
theorem test_lutidx_borrow : (after .lutidx (ops 0xFFFFF000#32 0xEFFFF000#32 0#32 0#32)).res0 = 0x3F80#32 := by decide
theorem test_lutidx_last : (after .lutidx (ops 0xFFF#32 0x0FFF0FFF#32 0#32 0#32)).res0 = 0x1FFFFF#32 := by decide
theorem test_lutfetch_domain :
    (after .lutfetch (withTable [] (ops 0x200000#32 0#32 0#32 0#32))).err = .domain := by decide
theorem test_lutfetch_wraps :
    (after .lutfetch { ops 8#32 0#32 0#32 0#32 with
      cfg := { Cfg.reset with lutBase := 0x3FFFFFFC#30 }
      mem := Memory.store [] 4 0x10#32 0x11223344#32 }).res0 = 0x11223344#32 := by decide
theorem test_lutsample : (after .lutsample (withTable table3 (ops 0#32 0x80#32 0#32 0#32))).res0 = 0x00FFFFFF#32
    ∧ (after .lutsample (withTable table3 (ops 0#32 0x80#32 0#32 0#32))).res1 = 0x102042#32 := by decide
theorem test_march : (after .march (withTable table3 (ops 0#32 0#32 0#32 0x40#32))).res0 = 0xE6FB#32
    ∧ (after .march (withTable table3 (ops 0#32 0#32 0#32 0x40#32))).res1 = 0x103#32
    ∧ (after .march (withTable table3 (ops 0#32 0#32 0#32 0x40#32))).accR = 3602#16 := by decide
theorem test_march_buserr :
    (after .march (refusing 0xC0408100 .word .read (withTable hitTable (ops 0#32 0#32 0#32 0#32)))).err = .buserr := by
  decide
theorem test_framepre :
    (after .framepre { State.reset with cfg := { Cfg.reset with
      rotFrame := 7#16, rotStep := 1024#32, transFrame := 2#16, transStep := 0xFFFFFFF8#32 } }).frameZoff
      = 0xFFFFFFF0#32 := by decide
theorem test_framepre_domain :
    (after .framepre { State.reset with cfg := { Cfg.reset with rotFrame := 4#16, rotStep := 4096#32 } }).err
      = .domain := by decide
theorem test_pixel : (after .pixel (withTable hitTable (ops 0x00010002#32 0#32 0#32 0#32))).res0 = 0xFC08#32 := by
  decide
theorem test_raygen : (rayGen .q12 ⟨{ Cfg.reset with
      pixStep := 64#32, u0 := 0xFFFFFF80#32, v0 := 0xFFFFFFC0#32, focal := 4096#32, dirshift := 6#5 },
      .rgb565, 4096#32, 0#32, 0#32⟩ 0 0).1 = ⟨0#32, 0#32, 0xFFFFFFFE#32, 0xFFFF0040#32⟩ := by decide

/-! ### One step of the command engine and of the frame controller (V12, P3 to P6) -/

theorem test_illegal_word : (State.reset.writeReg .cmd 0x00000101#32).statusWord = 0x00000018#32 := by decide
theorem test_conflict : (State.writeReg { State.reset with sfc := { Sfc.reset with phase := .active } } .cmd
    0x0000000C#32).statusWord = 0x00000338#32 := by decide
theorem test_dropped : (State.writeReg { State.reset with latch := some (Latch.capture .isqrt State.reset) } .cmd
    3#32).statusWord = 0x00000003#32 := by decide
theorem test_recon_edge : Memory.get (turn .sfc (frameAt true false ⟨.recon, 1, 1⟩ rendered3)).mem 0xC0800003
    = some 0x38#8 := by decide
theorem test_recon_row_one : Memory.get (turn .sfc (frameAt true false ⟨.recon, 2, 2⟩ rendered3)).mem 0xC080000D
    = some 0x70#8 := by decide
theorem test_mirror : Memory.get (turn .sfc (frameAt false true ⟨.mirror, 1, 1⟩ rendered3)).mem 0xC080000B
    = some 0x78#8 := by decide
theorem test_line_tops_out : (turn .lineUp { State.reset with line := 0xFFFF#16 }).line = 0xFFFF#16
    ∧ (turn .lineUp State.reset).line = 1#16 := by decide
theorem test_framebuffer_region :
    let c : Cfg := { Cfg.reset with fbBase := 0xC0800000#32, fbStride := 16#16, fbW := 4#16, fbH := 2#16 }
    inFramebuffer .rgb565 c 0xC0800007 = true ∧ inFramebuffer .rgb565 c 0xC0800008 = false
    ∧ inFramebuffer .rgb565 c 0xC0800010 = true ∧ inFramebuffer .rgb565 c 0xC0800018 = false
    ∧ inFramebuffer .rgb565 { c with fbH := 0#16 } 0xC0800000 = false := by decide
theorem test_window_wraps : Build.windowOffset ⟨.q12, 0xFFFFFF80#32, []⟩ 0x00000014#32 = some 0x94#32 := by decide
theorem test_late : (turn .sfc { frameAt true false ⟨.paint 3, 1, 3⟩ rendered3 with
    flags := { Flags.none with fstart := true } }).statusWord = 0x00008900#32 := by decide
theorem test_config_fault : (turn .sfc { preAt 0#16 0#16 0#16 0#32 with
    flags := { Flags.none with fstart := true } }).statusWord = 0x0000D000#32 := by decide
theorem test_complete : (turn .sfc { frameAt true false ⟨.finish, 2, 0⟩ [] with
    flags := { Flags.none with fstart := true } }).statusWord = 0x00008500#32 := by decide

/-! ### States that meet the hypotheses of the claims -/

theorem witness_wellFormed : Instr.pixel.wellFormed = true := by decide
theorem witness_latched : ∃ l : Latch, ({ State.reset with
      sched := [.cmd], latch := some (Latch.capture .isqrt State.reset) } : State).latch = some l
    ∧ ({ State.reset with sched := [.cmd], latch := some (Latch.capture .isqrt State.reset) } : State).sched
      = .cmd :: [] := ⟨_, rfl, rfl⟩
theorem witness_table_word : decodeTableWord 32 0x0B = some .pixel ∧ decodeTableWord 32 0x00 = some .nop := by decide
theorem witness_cmd_busy : ({ State.reset with latch := some (Latch.capture .nop State.reset) } : State).latch ≠ none := by
  decide
theorem witness_cmd_conflict : ({ State.reset with sfc := { Sfc.reset with phase := .active } } : State).latch = none
    ∧ ({ State.reset with sfc := { Sfc.reset with phase := .active } } : State).sfc.phase = .active := by decide
theorem witness_cmd_illegal : State.reset.latch = none ∧ State.reset.sfc.phase = .off
    ∧ (0x0000000C#32).toNat / 256 = 0 ∧ 0x0B < (0x0000000C#32).toNat % 256
    ∧ (0x00000100#32).toNat / 256 ≠ 0 ∧ ¬ 0x0B < (0x0000000B#32).toNat % 256 := by decide
theorem witness_cmd_accept : State.reset.latch = none ∧ State.reset.sfc.phase = .off
    ∧ 0x0000000B#32 = encode .pixel ∧ 0x00000000#32 = encode .nop := by decide
theorem witness_cossin : (ops 16383#32 0#32 0#32 0#32 |>.running .cossin).a.toInt < 4 * one .q12
    ∧ 4 * one .q12 ≤ (ops 16384#32 0#32 0#32 0#32 |>.running .cossin).a.toInt
    ∧ (ops 0xFFFFFFFF#32 0#32 0#32 0#32 |>.running .cossin).a.toInt < 0 := by decide
theorem witness_theta : (0 : Int) < 4 * one .q10 ∧ 4 * one .q13 - 1 < 4 * one .q13 ∧ 0 ≤ 4 * one .q13 - 1 := by decide
theorem witness_negative : (ops 0xFFFFFFFF#32 0#32 0#32 0#32 |>.running .qexp).a.toInt < 0
    ∧ ¬ (ops 0#32 0#32 0#32 0#32 |>.running .isqrt).a.toInt < 0 := by decide
theorem witness_ladder : 12 < (qexpLadder .q13).length := by decide
theorem witness_same_index : lutIdx .q12 0#32 0#32 = lutIdx .q12 0x3F#32 0x0000003F#32 ∧ 2 ^ 21 - 1 < 2 ^ 21 := by decide
theorem witness_lutfetch_domain : 2 ^ 21 ≤ (ops 0x200000#32 0#32 0#32 0#32 |>.running .lutfetch).a.toNat := by decide
theorem witness_lutfetch_buserr :
    (ops 0x1FFFFF#32 0#32 0#32 0#32 |>.running .lutfetch).a.toNat < 2 ^ 21
    ∧ Build.busOk (refusing 0x7FFFFC .word .read (ops 0x1FFFFF#32 0#32 0#32 0#32)).build
      (tableAddr Cfg.reset 0x1FFFFF) .word .read = false := by decide
theorem witness_lutfetch_ok : (ops 0x1FFFFF#32 0#32 0#32 0#32 |>.running .lutfetch).a.toNat < 2 ^ 21
    ∧ Build.busOk (ops 0x1FFFFF#32 0#32 0#32 0#32).build (tableAddr Cfg.reset 0x1FFFFF) .word .read = true := by decide
theorem witness_lutsample_buserr :
    Build.busOk (refusing 0xC0408100 .word .read (withTable hitTable State.reset)).build
      (tableAddr lutCfg (indexOf .q12 0#32 0#32)) .word .read = false := by decide
theorem witness_lutsample_ok :
    Build.busOk State.reset.build (tableAddr lutCfg (indexOf .q12 0#32 0#32)) .word .read = true := by decide
theorem witness_march : ∃ o, (march (withTable hitTable State.reset) lutCfg ⟨0#32, 0#32, 0#32, 0#32⟩ 0).1 = some o :=
  ⟨⟨4080, 2048, 1024, 1, true⟩, by decide⟩
theorem witness_first_hit : 0 < lutCfg.marchN.toNat
    ∧ (withTable hitTable State.reset).fetchEntry lutCfg 0 (lutIdx .q12 0#32 0#32) = (some 0x00FF8040#32, 0)
    ∧ entryD 0x00FF8040#32 = 0 := by decide
theorem witness_framepre : ¬ 4 * one .q12 ≤ ((1#16).toNat : Int) * (16383#32).toNat
    ∧ 4 * one .q12 ≤ ((1#16).toNat : Int) * (16384#32).toNat := by decide
theorem witness_registers : writableBits .dirshift = some 0x0000001F#32 ∧ readOnly .lateCount = true
    ∧ Reg.dirshift ≠ .ctrl ∧ Reg.focal ≠ .dirshift := by decide
theorem witness_reserved : 0x0B4 ≤ (0x0B4#32).toNat ∧ (0x0B4#32).toNat % 4 = 0
    ∧ (0x0FC#32).toNat ≤ 0x0FC ∧ (0x0FC#32).toNat % 4 = 0 := by decide
theorem witness_narrow : (State.reset.build.blockBase + 0xFF#32 - State.reset.build.blockBase).toNat < 256
    ∧ Width.byte ≠ .word := by decide
theorem witness_misaligned : (State.reset.build.blockBase + 2#32 - State.reset.build.blockBase).toNat < 256
    ∧ (State.reset.build.blockBase + 2#32 - State.reset.build.blockBase).toNat % 4 ≠ 0 := by decide
theorem witness_poll : (State.reset.withProgram [.poll, .rd .res0]).program = expand .poll ++ [.read 0x028#32] := by decide
theorem witness_write_ok : Build.busOk State.reset.build 0xFFFFFFFF#32 .word .write = true
    ∧ Build.busOk State.reset.build 0xFFFFFFFF#32 .word .read = true
    ∧ ∀ k, k < Width.word.bytes → State.reset.pendingAt (0xFFFFFFFF#32 + BitVec.ofNat 32 k) = [] :=
  ⟨by decide, by decide, fun _ _ => rfl⟩
theorem witness_write_refused :
    Build.busOk (refusing 0x10 .half .write State.reset).build 0x10#32 .half .write = false := by decide
theorem witness_publish : ¬ (0x50000100#32 - State.reset.build.blockBase).toNat < 256
    ∧ State.reset.latch = none ∧ State.reset.sfc.phase = .off := by decide
theorem witness_pre_held : (preAt 8#16 1#16 0#16 0#32).sfc.phase = .pre
    ∧ ({ preAt 8#16 1#16 0#16 0#32 with latch := some (Latch.capture .nop State.reset) } : State).latch ≠ none := by decide
theorem witness_pre_config : (preAt 0#16 1#16 0#16 0#32).latch = none
    ∧ Snap.configOk ⟨false, false, .l8, (preAt 0#16 1#16 0#16 0#32).cfg⟩ = false := by decide
theorem witness_pre_domain : (preAt 8#16 2#16 1#16 16384#32).sfc.phase = .pre
    ∧ Snap.configOk ⟨false, false, .l8, (preAt 8#16 2#16 1#16 16384#32).cfg⟩ = true
    ∧ 4 * one .q12 ≤ ((1#16).toNat : Int) * (16384#32).toNat := by decide
theorem witness_pre_starts : (preAt 8#16 2#16 1#16 16383#32).latch = none
    ∧ Snap.configOk ⟨false, false, .l8, (preAt 8#16 2#16 1#16 16383#32).cfg⟩ = true
    ∧ ¬ 4 * one .q12 ≤ ((1#16).toNat : Int) * (16383#32).toNat := by decide
theorem witness_sync_holds :
    let s : State := { frameAt false true ⟨.mirror, 1, 0⟩ [] with line := 1#16 }
    s.sfc.phase = .active ∧ s.sfc.cursor.sub = .mirror ∧ s.sfc.lateLatch = false
    ∧ s.line.toNat ≤ s.sfc.snap.cfg.voff.toNat + s.sfc.cursor.y := by decide
theorem witness_render :
    let s := frameAt true false ⟨.render, 1, 3⟩ []
    s.sfc.phase = .active ∧ s.sfc.cursor = ⟨.render, 1, 3⟩ ∧ s.sfc.lateLatch = false
    ∧ s.sfc.snap.cfg.voff.toNat + 1 < s.line.toNat := by decide
theorem witness_recon : (frameAt true false ⟨.recon, 1 + 1, 2⟩ []).sfc.phase = .active
    ∧ (frameAt true false ⟨.recon, 1 + 1, 2⟩ []).sfc.cursor = ⟨.recon, 1 + 1, 2⟩ := by decide
theorem witness_mirror :
    let s := frameAt false true ⟨.mirror, 1, 0⟩ []
    s.sfc.phase = .active ∧ s.sfc.cursor = ⟨.mirror, 1, 0⟩ ∧ s.sfc.lateLatch = false
    ∧ s.sfc.snap.cfg.voff.toNat + 1 < s.line.toNat := by decide
/-- The frame of `witness_render` with a TICK come. -/
def lateFrame (c : Cursor) : State :=
  { frameAt true false c [] with sfc := { (frameAt true false c []).sfc with lateLatch := true } }
theorem witness_late : (lateFrame ⟨.render, 1, 3⟩).sfc.phase = .active
    ∧ (lateFrame ⟨.render, 1, 3⟩).sfc.cursor = ⟨.render, 1, 3⟩
    ∧ (lateFrame ⟨.render, 1, 3⟩).sfc.lateLatch = true ∧ 3 < (lateFrame ⟨.render, 1, 3⟩).sfc.snap.cfg.fbW.toNat := by decide
theorem witness_paint : (lateFrame ⟨.paint 3, 1, 3⟩).sfc.phase = .active
    ∧ (lateFrame ⟨.paint 3, 1, 3⟩).sfc.cursor = ⟨.paint 3, 1, 3⟩ ∧ 3 < (lateFrame ⟨.paint 3, 1, 3⟩).sfc.snap.cfg.fbW.toNat := by
  decide
theorem witness_complete : (frameAt true false ⟨.finish, 2, 0⟩ []).sfc.phase = .active
    ∧ (frameAt true false ⟨.finish, 2, 0⟩ []).sfc.cursor.sub = .finish := by decide
theorem witness_config_ok : (frameSnap true false).configOk = true ∧ (frameSnap true true).configOk = true := by decide
theorem witness_frame :
    let s := frameAt true false (frameSnap true false).firstCursor []
    s.sfc.phase = .active ∧ s.sfc.lateLatch = false ∧ s.sfc.snap.configOk = true
    ∧ s.sfc.cursor = s.sfc.snap.firstCursor ∧ s.build.denied = []
    ∧ s.sfc.snap.cfg.voff.toNat + s.sfc.snap.cfg.fbH.toNat ≤ s.line.toNat := by decide
theorem witness_turns : (∃ t, takeTurn .sfc (frameAt true false ⟨.finish, 2, 0⟩ []) = .next t)
    ∧ (∃ t, takeTurn .hostPublish State.reset = .next t) ∧ (∃ t, takeTurn .lineUp State.reset = .next t) ∧ ∃ t, takeTurn .cmd State.reset = .next t :=
  ⟨⟨_, rfl⟩, ⟨_, rfl⟩, ⟨_, rfl⟩, ⟨_, rfl⟩⟩
/-- A frame whose next turn is the frame controller's. -/
def planned : State := { frameAt true false ⟨.render, 1, 3⟩ [] with sched := [.sfc] }
theorem witness_step : ∃ t, step planned = .next t := ⟨_, rfl⟩
theorem witness_invariants : planned.memoryOk = true ∧ planned.enableOk = true ∧ planned.exclusiveOk = true
    ∧ planned.lateLatchOk = true ∧ planned.frameOk = true := by decide

end Sys2Proof.Tests
end

section
/-! PROOFS. The encoding (30_encoding.md R100 to R105): the decoder takes a word apart into RSVD and OPCODE,
the encoder's words are the ones with RSVD zero and a mapped OPCODE, and so the two agree on every word. -/

namespace Sys2Proof.Proofs.Encoding

/-! ### The opcode map (R103) -/

/-- The per-instruction laws, for every command. -/
theorem statement_all (i : Instr) : Laws.Encoding.Statement i := by
  cases i with
  | nop => exact Laws.Encoding.nop
  | cossin => exact Laws.Encoding.cossin
  | qexp => exact Laws.Encoding.qexp
  | isqrt => exact Laws.Encoding.isqrt
  | rot2d => exact Laws.Encoding.rot2d
  | packyz => exact Laws.Encoding.packyz
  | lutidx => exact Laws.Encoding.lutidx
  | lutfetch => exact Laws.Encoding.lutfetch
  | lutsample => exact Laws.Encoding.lutsample
  | march => exact Laws.Encoding.march
  | framepre => exact Laws.Encoding.framepre
  | pixel => exact Laws.Encoding.pixel

/-- The opcode map has at most one opcode for each command. -/
theorem eq_opcode_of_decodeOpcode {op : BitVec 8} {i : Instr} (h : decodeOpcode op = some i) :
    op = opcode i := by
  apply BitVec.eq_of_toNat_eq
  unfold decodeOpcode at h
  split at h
  case h_13 => cases h
  all_goals cases h; assumption

theorem decodeOpcode_eq_some_iff (op : BitVec 8) (i : Instr) :
    decodeOpcode op = some i ↔ op = opcode i := by
  obtain ⟨-, -, -, hmap⟩ := statement_all i
  exact ⟨eq_opcode_of_decodeOpcode, fun h => h ▸ hmap⟩

theorem decodeOpcode_eq_none_iff (op : BitVec 8) : decodeOpcode op = none ↔ 0x0B < op.toNat := by
  unfold decodeOpcode
  split
  case h_13 => simp only [true_iff]; grind
  all_goals simp only [reduceCtorEq, false_iff]; omega

/-! ### The fields of a word (R100) -/

theorem rsvd_eq_zero_iff (w : Word) : w.extractLsb' 8 24 = 0#24 ↔ w.toNat / 256 = 0 := by
  have hw := w.isLt
  rw [← BitVec.toNat_inj, BitVec.extractLsb'_toNat, Nat.shiftRight_eq_div_pow, BitVec.toNat_ofNat]
  omega

theorem toNat_opcodeField (w : Word) : (w.extractLsb' 0 8).toNat = w.toNat % 256 := by
  rw [BitVec.extractLsb'_toNat, Nat.shiftRight_zero]

theorem rsvd_append_opcodeField (w : Word) : w.extractLsb' 8 24 ++ w.extractLsb' 0 8 = w :=
  (BitVec.extractLsb'_append_extractLsb'_eq_extractLsb' (start₁ := 0) (start₂ := 8) rfl).trans
    BitVec.extractLsb'_eq_self

theorem eq_encode_iff (w : Word) (i : Instr) :
    w = encode i ↔ w.extractLsb' 8 24 = 0#24 ∧ w.extractLsb' 0 8 = opcode i := by
  constructor
  · rintro rfl
    obtain ⟨-, hrsvd, hop, -⟩ := statement_all i
    exact ⟨hrsvd, hop⟩
  · rintro ⟨hrsvd, hop⟩
    rw [← rsvd_append_opcodeField w, hrsvd, hop, encode]

/-! ### The decoder (R104, R105) -/

theorem decode_eq_ok_iff (w : Word) (i : Instr) :
    decode w = .ok i ↔ w.extractLsb' 8 24 = 0#24 ∧ decodeOpcode (w.extractLsb' 0 8) = some i := by
  unfold decode
  by_cases hrsvd : w.extractLsb' 8 24 = 0#24
  · cases hop : decodeOpcode (w.extractLsb' 0 8) <;> simp [hrsvd]
  · simp [hrsvd]

theorem decode_eq_error_iff (w : Word) :
    (∃ e, decode w = .error e) ↔ w.extractLsb' 8 24 ≠ 0#24 ∨ decodeOpcode (w.extractLsb' 0 8) = none := by
  unfold decode
  by_cases hrsvd : w.extractLsb' 8 24 = 0#24
  · cases hop : decodeOpcode (w.extractLsb' 0 8) <;> simp [hrsvd]
  · simp [hrsvd]

/-- R105: the words that decode to a command are its encoding. -/
theorem decode_eq_ok_iff_eq_encode (w : Word) (i : Instr) : decode w = .ok i ↔ w = encode i := by
  rw [decode_eq_ok_iff, decodeOpcode_eq_some_iff, eq_encode_iff]

/-- R104: the illegal words, by RSVD and OPCODE as numbers. -/
theorem decode_eq_error_iff_toNat (w : Word) :
    (∃ e, decode w = .error e) ↔ (w.toNat / 256 ≠ 0 ∨ 0x0B < w.toNat % 256) := by
  rw [decode_eq_error_iff, decodeOpcode_eq_none_iff, toNat_opcodeField, ne_eq, rsvd_eq_zero_iff]

/-- Settles O3: the decoder's two outcomes, each by RSVD and OPCODE, are the encoder's words and the rest. -/
theorem everyWordIsOneCommandOrIllegal : Obligations.EveryWordIsOneCommandOrIllegal :=
  ⟨decode_eq_ok_iff_eq_encode, decode_eq_error_iff_toNat⟩

end Sys2Proof.Proofs.Encoding
end

section
/-! PROOFS. Completion of a command (44_register_access.md R256; 60_exceptions.md R271): `finishCommand` of
an outcome that reported no overflow is `ended`, with the results delivered on success. -/

namespace Sys2Proof.Proofs.Completion

open Sys2Proof.Machine Sys2Proof.Claims

theorem finishCommand_error (s : State) (n : Nat) (e : ErrCode) :
    s.finishCommand n false (.error e) = ended s e n := by
  simp only [State.finishCommand, State.raiseCmdError, State.close, Bool.or_false, ended]

theorem finishCommand_ok (s : State) (n : Nat) (r : Results) :
    s.finishCommand n false (.ok r) = (ended s .ok n).deliver r := by
  simp only [State.finishCommand, State.close, Bool.or_false, ended]

/-- A command with a domain (R271): DOMAIN outside it, its results inside. -/
theorem finishCommand_ite_domain (s : State) (n : Nat) (c : Prop) [Decidable c] (r : Results) :
    s.finishCommand n false (if c then .error .domain else .ok r)
      = if c then ended s .domain n else (ended s .ok n).deliver r := by
  rw [apply_ite (s.finishCommand n false), finishCommand_error, finishCommand_ok]

end Sys2Proof.Proofs.Completion
end

section
/-! PROOFS. COSSIN (40_fixed_point_math.md R133): the four quadrants of theta, and the quadratic of each. -/

namespace Sys2Proof.Proofs.Cossin

open Sys2Proof.Machine Sys2Proof.Claims Sys2Proof.Proofs.Completion

/-- `Claims.one` is the model's `ONE`. -/
theorem one_eq_natCast (q : QFormat) : one q = (q.one : Int) := by
  simp only [one, QFormat.one, Nat.cast_pow, Nat.cast_ofNat]

theorem qformat_one_pos (q : QFormat) : 0 < q.one := Nat.two_pow_pos q.frac

/-- Which quadrant of width `m` a number below four of them lies in. -/
theorem quadrant_cases {n m : Nat} (hm : 0 < m) (h : n < 4 * m) :
    (n / m = 0 ∧ n < m) ∨ (n / m = 1 ∧ m ≤ n ∧ n < 2 * m) ∨ (n / m = 2 ∧ 2 * m ≤ n ∧ n < 3 * m)
      ∨ (n / m = 3 ∧ 3 * m ≤ n) := by
  have hk : n / m < 4 := Nat.div_lt_of_lt_mul (by omega)
  have hdiv := Nat.div_add_mod n m
  have hmod := Nat.mod_lt n hm
  interval_cases n / m <;> omega

/-- R133 on a legal angle: the model's quadratics in naturals are the claim's in integers. -/
theorem cossin_natCast (q : QFormat) {n : Nat} (h : n < 4 * q.one) :
    cossin q n = some (BitVec.ofInt 32 (cosSin q n).1, BitVec.ofInt 32 (cosSin q n).2) := by
  have hpos := qformat_one_pos q
  have hle := (Nat.mod_lt n hpos).le
  have hc : ((n % q.one * (n % q.one) / q.one : Nat) : Int) = ((n : Int) % q.one) ^ 2 / q.one := by
    push_cast
    rw [pow_two]
  have hs : (((q.one - n % q.one) * (q.one - n % q.one) / q.one : Nat) : Int)
      = (q.one - (n : Int) % q.one) ^ 2 / q.one := by
    push_cast [hle]
    rw [pow_two]
  have hlegal : ¬ ((n : Int) < 0 ∨ 4 * (q.one : Int) ≤ n) := by omega
  simp only [cossin, if_neg hlegal, Int.toNat_natCast, hc, hs, cosSin, one_eq_natCast, trunc32]
  rcases quadrant_cases hpos h with ⟨hk, h0⟩ | ⟨hk, h0, h1⟩ | ⟨hk, h1, h2⟩ | ⟨hk, h2⟩
  · simp only [hk]
    rw [if_pos (by omega)]
  · simp only [hk]
    rw [if_neg (by omega), if_pos (by omega)]
  · simp only [hk]
    rw [if_neg (by omega), if_neg (by omega), if_pos (by omega)]
  · simp only [hk]
    rw [if_neg (by omega), if_neg (by omega), if_neg (by omega)]

theorem cossin_eq_none {q : QFormat} {th : Int} (h : th < 0 ∨ 4 * one q ≤ th) : cossin q th = none := by
  rw [one_eq_natCast] at h
  rw [cossin, if_pos h]

theorem cossin_eq_some {q : QFormat} {th : Int} (h : ¬ (th < 0 ∨ 4 * one q ≤ th)) :
    cossin q th = some (BitVec.ofInt 32 (cosSin q th).1, BitVec.ofInt 32 (cosSin q th).2) := by
  rw [one_eq_natCast] at h
  lift th to Nat using by omega
  exact cossin_natCast q (by omega)

/-- Settles O9: the angle outside the four quadrants, and the angle inside. -/
theorem cossinGivesReflectedQuadratic : Obligations.CossinGivesReflectedQuadratic := by
  refine ⟨(Encoding.decode_eq_ok_iff_eq_encode _ _).2 rfl, fun s => ?_⟩
  dsimp only [exec, execCossin, i32]
  by_cases h : (s.running .cossin).a.toInt < 0 ∨ 4 * one s.build.q ≤ (s.running .cossin).a.toInt
  · rw [cossin_eq_none h, if_pos h, finishCommand_error]
  · rw [cossin_eq_some h, if_neg h, finishCommand_ok]
    rfl

end Sys2Proof.Proofs.Cossin
end

section
/-! PROOFS. QEXP (40_fixed_point_math.md R136): the doubling loop is one division by LN2, and the fraction
ladder saturates where the claim's does. -/

namespace Sys2Proof.Proofs.Qexp

open Sys2Proof.Machine Sys2Proof.Claims Sys2Proof.Proofs.Completion

/-- The integer ladder in closed form: from `2^e` and with enough passes, it makes `r / ln2` doublings
and leaves `r % ln2`, or saturates when they would pass `2^30`. -/
theorem qexpDouble_eq {ln2 : Nat} (hln2 : 0 < ln2) {n r e : Nat} (hr : r ≤ n) (he : e ≤ 30) :
    qexpDouble ln2 n r (2 ^ e)
      = if 30 < e + r / ln2 then none else some (r % ln2, 2 ^ (e + r / ln2)) := by
  induction n generalizing r e with
  | zero =>
    obtain rfl : r = 0 := by omega
    rw [qexpDouble, Nat.zero_div, Nat.zero_mod, Nat.add_zero, if_neg (by omega)]
  | succ n ih =>
    rw [qexpDouble]
    by_cases hle : ln2 ≤ r
    · have hpos : 0 < r / ln2 := Nat.div_pos hle hln2
      have hdiv : r / ln2 = (r - ln2) / ln2 + 1 := Nat.div_eq_sub_div hln2 hle
      have hpow : 2 ^ 30 ≤ 2 ^ e ↔ 30 ≤ e := Nat.pow_le_pow_iff_right (by decide)
      rw [if_pos hle, hdiv]
      by_cases hsat : 30 ≤ e
      · rw [if_pos (hpow.2 hsat), if_pos (by omega)]
      · rw [if_neg (mt hpow.1 hsat), ← Nat.pow_succ', ih (by omega) (by omega), ← Nat.mod_eq_sub_mod hle,
          Nat.succ_add_eq_add_succ]
    · have hlt : r < ln2 := by omega
      rw [if_neg hle, Nat.div_eq_of_lt hlt, Nat.mod_eq_of_lt hlt, Nat.add_zero, if_neg (by omega)]

theorem qexpFraction_getD (ls : List Nat) (k r y : Nat) :
    (qexpFraction ls k r y).getD qexpMax = fractionLadder ls k r y := by
  induction ls generalizing k r y with
  | nil => rfl
  | cons l ls ih =>
    have hmax : qexpMax < y + y / 2 ^ k ↔ 2 ^ 31 ≤ y + y / 2 ^ k := by
      rw [qexpMax]
      omega
    rw [qexpFraction, fractionLadder]
    by_cases hlt : r < l
    · rw [if_pos hlt, if_neg (by omega), ih]
    · rw [if_neg hlt, if_pos (by omega)]
      by_cases hsat : 2 ^ 31 ≤ y + y / 2 ^ k
      · rw [if_pos (hmax.2 hsat), if_pos hsat]
        rfl
      · rw [if_neg (mt hmax.1 hsat), if_neg hsat, ih]

theorem qexpLn2_pos (q : QFormat) : 0 < qexpLn2 q := by cases q <;> decide

theorem frac_le (q : QFormat) : q.frac ≤ 30 := by cases q <;> decide

/-- R136 in closed form. -/
theorem qexp_eq_expValue (q : QFormat) (x : Nat) : qexp q x = expValue q x := by
  have hfrac := frac_le q
  rw [qexp, QFormat.one, qexpDouble_eq (qexpLn2_pos q) le_rfl hfrac, expValue]
  by_cases hsat : 30 - q.frac < x / qexpLn2 q
  · rw [if_pos (by omega), if_pos hsat]
    rfl
  · rw [if_neg (by omega), if_neg hsat]
    exact qexpFraction_getD ..

/-- Settles O11: QEXP's completion on its domain, with `qexp` in closed form. -/
theorem qexpByRangeReduction : Obligations.QexpByRangeReduction := by
  refine ⟨(Encoding.decode_eq_ok_iff_eq_encode _ _).2 rfl, fun s => ?_⟩
  dsimp only [exec, execQexp, i32]
  rw [finishCommand_ite_domain, qexp_eq_expValue]
  rfl

end Sys2Proof.Proofs.Qexp
end

section
/-! PROOFS. ISQRT (40_fixed_point_math.md R138, R139): Newton's average never falls below the floor root, and
the loop stops only at or below it. -/

namespace Sys2Proof.Proofs.Isqrt

open Sys2Proof.Machine Sys2Proof.Claims Sys2Proof.Proofs.Completion

/-- R139: the Newton average of a positive estimate is at or above the floor root. -/
theorem sqrt_le_average (n : Nat) {x : Nat} (hx : 0 < x) : Nat.sqrt n ≤ (x + n / x) / 2 := by
  have hroot : (2 * Nat.sqrt n - x) * x ≤ n := by
    refine le_trans ?_ (Nat.sqrt_le n)
    rcases Nat.le_total (2 * Nat.sqrt n) x with h | h
    · simp [Nat.sub_eq_zero_of_le h]
    · zify [h]
      linarith [sq_nonneg ((Nat.sqrt n : Int) - x)]
  have hdiv := (Nat.le_div_iff_mul_le hx).2 hroot
  omega

/-- The loop stops at the floor root: an estimate whose average does not fall has its square within `n`. -/
theorem le_sqrt_of_le_average {n x : Nat} (h : x ≤ (x + n / x) / 2) : x ≤ Nat.sqrt n :=
  Nat.le_sqrt.2 (Nat.mul_le_of_le_div x x n (by omega))

theorem isqrtLoop_eq_sqrt {n k x : Nat} (hk : x ≤ k) (hx : Nat.sqrt n ≤ x) :
    isqrtLoop n k x ((x + n / x) / 2) = Nat.sqrt n := by
  induction k generalizing x with
  | zero =>
    rw [isqrtLoop]
    omega
  | succ k ih =>
    rw [isqrtLoop]
    split
    next hlt => exact ih (by omega) (sqrt_le_average n (Nat.zero_lt_of_lt hlt))
    next hge => exact le_antisymm (le_sqrt_of_le_average (by omega)) hx

theorem isqrt_eq_sqrt (n : Nat) : isqrt n = Nat.sqrt n := by
  rw [isqrt]
  split
  next hzero => rw [hzero, Nat.sqrt_zero]
  next hpos =>
    have hfirst : (n + 1) / 2 = (n + n / n) / 2 := by rw [Nat.div_self (by omega)]
    rw [hfirst, isqrtLoop_eq_sqrt le_rfl (Nat.sqrt_le_self n)]

/-- Settles O14: ISQRT's completion on its domain, with `isqrt` the floor root. -/
theorem isqrtIsFloorRoot : Obligations.IsqrtIsFloorRoot := by
  refine ⟨(Encoding.decode_eq_ok_iff_eq_encode _ _).2 rfl, fun s => ?_⟩
  dsimp only [exec, execIsqrt, i32]
  rw [finishCommand_ite_domain, isqrt_eq_sqrt]
  rfl

end Sys2Proof.Proofs.Isqrt
end

section
/-! PROOFS. ROT2D (40_fixed_point_math.md R131, R140): the overflow check is the claim's, value by value. -/

namespace Sys2Proof.Proofs.Rot2d

open Sys2Proof.Machine Sys2Proof.Claims

theorem inI32_eq_false_iff (v : Int) : inI32 v = false ↔ outside v := by
  simp only [inI32, outside, Bool.and_eq_false_iff, decide_eq_false_iff_not]
  omega

/-- R131: the checks of a list report an overflow when some value of it is outside i32. -/
theorem chkAny_iff (vs : List Int) : chkAny vs = true ↔ anyOutside vs := by
  simp only [chkAny, List.any_eq_true, Bool.not_eq_true', inI32_eq_false_iff, anyOutside]

/-- `asr` by Q is the claim's floor division (R13). -/
theorem trunc32_asr (v : Int) (n : Nat) : trunc32 (asr v n) = BitVec.ofInt 32 (v / 2 ^ n) := by
  rw [trunc32, asr, Nat.cast_pow, Nat.cast_ofNat]

/-- R140: the two results and the check of the six intermediates. -/
theorem rot2d_eq (q : QFormat) (x y c s : Int) :
    rot2d q x y c s = (rotX q x y c s, rotY q x y c s, chkAny (rotChecked x y c s)) := by
  simp only [rot2d, trunc32_asr, rotX, rotY, rotChecked]

/-- Settles O15: OVF is the old flag or the check of the six intermediates. -/
theorem rot2dRotatesAndChecks : Obligations.Rot2dRotatesAndChecks := by
  refine ⟨(Encoding.decode_eq_ok_iff_eq_encode _ _).2 rfl, fun s => ?_⟩
  refine ⟨s.flags.ovf || chkAny _, by rw [Bool.or_eq_true, chkAny_iff], ?_⟩
  dsimp only [exec, execRot2d, i32]
  rw [rot2d_eq]
  rfl

end Sys2Proof.Proofs.Rot2d
end

section
/-! PROOFS. QEXP's constants (40_fixed_point_math.md R135): the logarithm by its area-hyperbolic-tangent
series, cut after five terms, is close enough to tell the nearest integer of every constant. -/

namespace Sys2Proof.Proofs.QexpConstants

open Sys2Proof.Machine

/-- The argument at which the series gives `ln(1 + 2^−k)`. -/
noncomputable def seriesArg (k : Nat) : ℝ := 1 / (2 ^ (k + 1) + 1)

/-- Half the series of `ln(1 + 2^−k)`, cut after five terms. -/
noncomputable def seriesSum (k : Nat) : ℝ := ∑ i ∈ Finset.range 5, seriesArg k ^ (2 * i + 1) / (2 * i + 1)

/-- A bound on what the cut leaves out. -/
noncomputable def seriesRest (k : Nat) : ℝ := seriesArg k ^ 11 / (1 - seriesArg k ^ 2)

theorem seriesArg_nonneg (k : Nat) : 0 ≤ seriesArg k := by
  unfold seriesArg
  positivity

theorem seriesArg_lt_one (k : Nat) : seriesArg k < 1 := by
  rw [seriesArg, div_lt_one (by positivity), lt_add_iff_pos_left]
  positivity

theorem one_add_div_one_sub_seriesArg (k : Nat) :
    (1 + seriesArg k) / (1 - seriesArg k) = 1 + 1 / 2 ^ k := by
  have hden := (sub_pos.2 (seriesArg_lt_one k)).ne'
  rw [div_eq_iff hden, seriesArg]
  field_simp
  ring

theorem two_mul_seriesSum_le_log (k : Nat) : 2 * seriesSum k ≤ Real.log (1 + 1 / 2 ^ k) := by
  have h := Real.sum_range_le_log_div (seriesArg_nonneg k) (seriesArg_lt_one k) 5
  rw [one_add_div_one_sub_seriesArg] at h
  rw [seriesSum]
  linarith

theorem log_le_two_mul_seriesSum_add (k : Nat) :
    Real.log (1 + 1 / 2 ^ k) ≤ 2 * (seriesSum k + seriesRest k) := by
  have h := Real.log_div_le_sum_range_add (seriesArg_nonneg k) (seriesArg_lt_one k) 5
  rw [one_add_div_one_sub_seriesArg] at h
  rw [seriesSum, seriesRest]
  linarith

/-- The series places `ln(1 + 2^−k) · 2^Q` strictly within one half of `c`. -/
def SeriesWithin (frac k c : Nat) : Prop :=
  (c : ℝ) - 1 / 2 < 2 * seriesSum k * 2 ^ frac
    ∧ 2 * (seriesSum k + seriesRest k) * 2 ^ frac < (c : ℝ) + 1 / 2

theorem SeriesWithin.abs_sub_log_lt {frac k c : Nat} (h : SeriesWithin frac k c) :
    |(c : ℝ) - Real.log (1 + 1 / 2 ^ k) * 2 ^ frac| < 1 / 2 := by
  obtain ⟨hlo, hhi⟩ := h
  have hpos : (0 : ℝ) ≤ 2 ^ frac := by positivity
  have h1 := mul_le_mul_of_nonneg_right (two_mul_seriesSum_le_log k) hpos
  have h2 := mul_le_mul_of_nonneg_right (log_le_two_mul_seriesSum_add k) hpos
  rw [abs_lt]
  constructor <;> linarith

/-- The constants of a list are placed by the series, the first one at step `k`. -/
def AllWithin (frac : Nat) : Nat → List Nat → Prop
  | _, [] => True
  | k, c :: cs => SeriesWithin frac k c ∧ AllWithin frac (k + 1) cs

theorem AllWithin.getElem {frac k : Nat} {cs : List Nat} (h : AllWithin frac k cs) (i : Nat)
    (hi : i < cs.length) : SeriesWithin frac (k + i) cs[i] := by
  induction cs generalizing k i with
  | nil => cases hi
  | cons c cs ih =>
    obtain ⟨hc, hcs⟩ := h
    cases i with
    | zero => exact hc
    | succ i =>
      have hstep := ih hcs i (Nat.lt_of_succ_lt_succ hi)
      rwa [Nat.succ_add_eq_add_succ] at hstep

/-- The arithmetic of R135, one pair of rational inequalities for each constant; the closest to a tie is
`L[2]` at Q = 10, where `ln(1 + 2^−2) · 2^10` is 228.49900. -/
theorem qexpConstants_allWithin (q : QFormat) : AllWithin q.frac 0 (qexpLn2 q :: qexpLadder q) := by
  cases q <;>
    norm_num [AllWithin, SeriesWithin, seriesSum, seriesRest, seriesArg, Finset.sum_range_succ,
      QFormat.frac, qexpLn2, qexpLadder]

/-- Settles O13: LN2 is the constant at step 0, and each `L[k]` the one at step `k`. -/
theorem qexpConstantsAreNearest : Obligations.QexpConstantsAreNearest := by
  refine ⟨by decide, fun q => ?_⟩
  obtain ⟨hln2, hladder⟩ := qexpConstants_allWithin q
  refine ⟨?_, by cases q <;> rfl, fun k hk => ?_⟩
  · have h := hln2.abs_sub_log_lt
    rwa [pow_zero, div_one, one_add_one_eq_two] at h
  · have h := (hladder.getElem k hk).abs_sub_log_lt
    rwa [Nat.add_comm (0 + 1) k] at h

end Sys2Proof.Proofs.QexpConstants
end

section
/-! PROOFS. Reads through the master port (20_memory.md R72, R77; 41_lut_indexer.md R166): what a read may
answer, in the claims' words, and the address of a table entry. -/

namespace Sys2Proof.Proofs.Reads

open Sys2Proof.Machine Sys2Proof.Claims

theorem busRead_of_refused {s : State} {a : Word} {w : Width} (n : Nat)
    (h : Build.busOk s.build a w .read = false) : s.busRead n a w = (none, n) := by
  rcases s.busRead_cases n a w with ⟨-, hread⟩ | ⟨hok, -⟩
  · exact hread
  · rw [h] at hok
    cases hok

theorem busRead_of_answered {s : State} {a : Word} {w : Width} (n : Nat)
    (h : Build.busOk s.build a w .read = true) :
    ∃ v m, s.busRead n a w = (some v, m) ∧ mayRead s a w v := by
  rcases s.busRead_cases n a w with ⟨hno, -⟩ | ⟨-, v, m, hread, hlt, hbytes⟩
  · rw [h] at hno
    cases hno
  · rw [show 256 = 2 ^ 8 from rfl, ← pow_mul] at hlt
    exact ⟨v, m, hread, h, hbytes, hlt⟩

theorem entryAddr_eq_tableAddr (c : Cfg) (i : Word) : entryAddr c i = tableAddr c i.toNat := by
  rw [entryAddr, tableAddr, Cfg.lutAddr, BitVec.ofNat_mul, BitVec.ofNat_toNat, BitVec.setWidth_eq]

theorem fetchEntry_of_refused {s : State} {c : Cfg} {i : Word} (n : Nat)
    (h : Build.busOk s.build (tableAddr c i.toNat) .word .read = false) : s.fetchEntry c n i = (none, n) := by
  rw [State.fetchEntry, entryAddr_eq_tableAddr, busRead_of_refused n h]

theorem fetchEntry_of_answered {s : State} {c : Cfg} {i : Word} (n : Nat)
    (h : Build.busOk s.build (tableAddr c i.toNat) .word .read = true) :
    ∃ e m, s.fetchEntry c n i = (some e, m) ∧ mayRead s (tableAddr c i.toNat) .word e := by
  rw [State.fetchEntry, entryAddr_eq_tableAddr]
  exact busRead_of_answered n h

end Sys2Proof.Proofs.Reads
end

section
/-! PROOFS. PACKYZ (41_lut_indexer.md R162, R163): the packed word is the sum modulo 2^32. -/

namespace Sys2Proof.Proofs.Packyz

open Sys2Proof.Machine

theorem toNat_packYZ (y z : Int) : ((packYZ y z).toNat : Int) = (y * 2 ^ 16 + z) % 2 ^ 32 := by
  rw [packYZ, trunc32, BitVec.toNat_ofInt, Int.toNat_of_nonneg (Int.emod_nonneg _ (by decide))]
  rfl

/-- Settles O16: the word PACKYZ delivers is `packYZ`. -/
theorem packyzPacksModulo : Obligations.PackyzPacksModulo :=
  ⟨(Encoding.decode_eq_ok_iff_eq_encode _ _).2 rfl, fun s =>
    ⟨_, toNat_packYZ _ _, congrArg Host.Outcome.next (Completion.finishCommand_ok s _ _)⟩⟩

end Sys2Proof.Proofs.Packyz
end

section
/-! PROOFS. Cells (41_lut_indexer.md R164): the cell of a coordinate is seven of its bits, the highest one
inverted. -/

namespace Sys2Proof.Proofs.Cells

open Sys2Proof.Machine Sys2Proof.Claims

/-- Bits [Q:Q−6] of a coordinate with bit Q inverted (R164). -/
def cellBits {n : Nat} (q : QFormat) (v : BitVec n) : BitVec 7 := v.extractLsb' (q.frac - 6) 7 ^^^ 0x40#7

/-! ### ONE in cells -/

theorem six_le_frac (q : QFormat) : 6 ≤ q.frac := by cases q <;> decide

theorem frac_le_thirteen (q : QFormat) : q.frac ≤ 13 := by cases q <;> decide

theorem cellWidth_pos (q : QFormat) : (0 : Int) < 2 ^ (q.frac - 6) := by positivity

/-- 128 cells make the table's period, 2·ONE. -/
theorem two_mul_one_eq_cells (q : QFormat) : 2 * one q = 2 ^ (q.frac - 6) * 128 := by cases q <;> decide

/-! ### The cell of an integer -/

theorem cell_nonneg (q : QFormat) (c : Int) : 0 ≤ cell q c := by
  have hm := cellWidth_pos q
  refine Int.ediv_nonneg (Int.emod_nonneg _ ?_) hm.le
  rw [two_mul_one_eq_cells]
  omega

theorem cell_lt (q : QFormat) (c : Int) : cell q c < 128 := by
  have hm := cellWidth_pos q
  rw [cell, two_mul_one_eq_cells]
  refine Int.ediv_lt_of_lt_mul hm ?_
  rw [mul_comm 128]
  exact Int.emod_lt_of_pos _ (by omega)

/-- A remainder modulo a multiple of `m * k` keeps the quotient by `m`, modulo `k`. -/
theorem emod_ediv_emod {m k n : Int} (hm : 0 < m) (h : m * k ∣ n) (c : Int) : c % n / m % k = c / m % k := by
  obtain ⟨t, rfl⟩ := h
  have hsplit : c = c % (m * k * t) + k * (t * (c / (m * k * t))) * m := by
    linear_combination -(Int.emod_add_mul_ediv c (m * k * t))
  conv_rhs => rw [hsplit, Int.add_mul_ediv_right _ _ hm.ne', Int.add_mul_emod_self_left]

/-- A cell counts cell widths from −ONE, modulo 128. -/
theorem cell_eq_emod (q : QFormat) (c : Int) : cell q c = (c / 2 ^ (q.frac - 6) + 64) % 128 := by
  have hm := cellWidth_pos q
  have hone : one q = 64 * 2 ^ (q.frac - 6) := by linarith [two_mul_one_eq_cells q]
  rw [← Int.emod_eq_of_lt (cell_nonneg q c) (cell_lt q c), cell, two_mul_one_eq_cells,
    emod_ediv_emod hm dvd_rfl, hone, Int.add_mul_ediv_right _ _ hm.ne']

theorem inCell_of_eq_cell {q : QFormat} {c : Int} {f : Nat} (h : (f : Int) = cell q c) : inCell q c f := by
  have hm := cellWidth_pos q
  have hone := two_mul_one_eq_cells q
  have hlt := cell_lt q c
  have hfold0 := Int.emod_nonneg (c + one q) (b := 2 * one q) (by omega)
  have hfold := Int.emod_lt_of_pos (c + one q) (b := 2 * one q) (by omega)
  refine ⟨by omega, by omega, by omega, h, fun j => ?_⟩
  rw [h, cell, Int.ediv_eq_iff_of_pos hm, add_one_mul]
  omega

/-! ### The seven bits of a word -/

theorem xor_topBit (b : BitVec 7) : (b ^^^ 0x40#7).toNat = (b.toNat + 64) % 128 := by
  revert b
  decide

theorem toNat_cellBits {n : Nat} (q : QFormat) (v : BitVec n) :
    (cellBits q v).toNat = (v.toNat / 2 ^ (q.frac - 6) + 64) % 128 := by
  rw [cellBits, xor_topBit, BitVec.extractLsb'_toNat, Nat.shiftRight_eq_div_pow, Nat.mod_add_mod]

/-- The cell of an integer is in the bits of any word that holds it, above bit Q. -/
theorem toNat_cellBits_ofInt {n : Nat} {q : QFormat} (hn : q.frac < n) (c : Int) :
    ((cellBits q (BitVec.ofInt n c)).toNat : Int) = cell q c := by
  have hfits : (2 : Int) ^ (q.frac - 6) * 128 ∣ (2 ^ n : Nat) := by
    rw [← two_mul_one_eq_cells, one, ← pow_succ', Nat.cast_pow]
    exact pow_dvd_pow 2 hn
  rw [toNat_cellBits, BitVec.toNat_ofInt, cell_eq_emod]
  push_cast
  rw [Int.toNat_of_nonneg (Int.emod_nonneg _ (by positivity)), ← Int.emod_add_emod,
    emod_ediv_emod (cellWidth_pos q) (by exact_mod_cast hfits), Int.emod_add_emod]

theorem toNat_cellBits_eq_cell {n : Nat} {q : QFormat} (hn : q.frac < n) (v : BitVec n) :
    ((cellBits q v).toNat : Int) = cell q v.toInt := by
  rw [← toNat_cellBits_ofInt hn, BitVec.ofInt_toInt]

theorem cell_eq_of_cellBits_eq {n : Nat} {q : QFormat} (hn : q.frac < n) {v w : BitVec n}
    (h : cellBits q v = cellBits q w) : cell q v.toInt = cell q w.toInt := by
  rw [← toNat_cellBits_eq_cell hn, ← toNat_cellBits_eq_cell hn, h]

end Sys2Proof.Proofs.Cells
end

section
/-! PROOFS. The table index (41_lut_indexer.md R165, R169): LUTIDX puts the cells of x, y and z side by side,
so the index and the three cells determine each other. -/

namespace Sys2Proof.Proofs.Index

open Sys2Proof.Machine Sys2Proof.Claims Sys2Proof.Proofs.Cells

/-! ### One axis: fold, shift and mask -/

theorem shift_mask_eq_extract (w : Word) (k : Nat) :
    (w >>> k) &&& 0x7F#32 = (w.extractLsb' k 7).setWidth 32 := by
  have hmask := Nat.and_two_pow_sub_one_eq_mod (w.toNat >>> k) 7
  apply BitVec.eq_of_toNat_eq
  rw [BitVec.toNat_and, BitVec.toNat_ushiftRight, BitVec.toNat_setWidth, BitVec.extractLsb'_toNat, ← hmask,
    Nat.mod_eq_of_lt (Nat.and_lt_two_pow _ (by decide))]
  rfl

/-- Adding half of the 128 cells inverts the highest bit of a cell field at bit `k`. -/
theorem extract_add_half (w : Word) {k : Nat} (hk : k + 7 ≤ 32) :
    (w + BitVec.twoPow 32 (k + 6)).extractLsb' k 7 = w.extractLsb' k 7 ^^^ 0x40#7 := by
  have hfits : 2 ^ k * 128 ∣ 2 ^ 32 := by
    rw [show 128 = 2 ^ 7 from rfl, ← pow_add]
    exact pow_dvd_pow 2 hk
  have hhalf : 2 ^ (k + 6) % 2 ^ 32 = 64 * 2 ^ k := by
    rw [Nat.mod_eq_of_lt (Nat.pow_lt_pow_right (by decide) (by omega)), pow_add, mul_comm]
    rfl
  apply BitVec.eq_of_toNat_eq
  rw [xor_topBit, BitVec.extractLsb'_toNat, BitVec.extractLsb'_toNat, BitVec.toNat_add, BitVec.toNat_twoPow,
    hhalf, Nat.shiftRight_eq_div_pow, Nat.shiftRight_eq_div_pow, ← Nat.mod_mul_right_div_self,
    Nat.mod_mod_of_dvd _ hfits, Nat.mod_mul_right_div_self, Nat.add_mul_div_right _ _ (Nat.two_pow_pos k),
    Nat.mod_add_mod]

theorem oneWord_eq_twoPow (q : QFormat) : oneWord q = BitVec.twoPow 32 (q.frac - 6 + 6) := by
  cases q <;> decide

theorem oneWord_shifted_eq_twoPow (q : QFormat) : oneWord q <<< 16 = BitVec.twoPow 32 (q.frac + 10 + 6) := by
  cases q <;> decide

theorem halfMask_extract (q : QFormat) : (0xFFFF#32).extractLsb' (q.frac - 6) 7 = BitVec.allOnes 7 := by
  cases q <;> decide

/-- The cell of the YZ word's y field, as bits of the word. -/
theorem cellBits_yField (q : QFormat) (yz : Word) :
    cellBits q (yz.extractLsb' 16 16) = yz.extractLsb' (q.frac + 10) 7 ^^^ 0x40#7 := by
  have hfrac := six_le_frac q
  have hfrac' := frac_le_thirteen q
  have hfield : (yz.extractLsb' 16 16).extractLsb' (q.frac - 6) 7 = yz.extractLsb' (q.frac + 10) 7 := by
    apply BitVec.eq_of_getLsbD_eq
    intro i hi
    have hlt : q.frac - 6 + i < 16 := by omega
    have hpos : 16 + (q.frac - 6 + i) = q.frac + 10 + i := by omega
    simp only [BitVec.getLsbD_extractLsb', hi, hlt, hpos, decide_true, Bool.true_and]
  rw [cellBits, hfield]

/-- The cell of the YZ word's z field, as bits of the word. -/
theorem cellBits_zField (q : QFormat) (yz : Word) :
    cellBits q (yz.extractLsb' 0 16) = yz.extractLsb' (q.frac - 6) 7 ^^^ 0x40#7 := by
  have hfrac := frac_le_thirteen q
  rw [cellBits, BitVec.extractLsb'_extractLsb'_of_le (by omega)]

/-! ### Three cells in a word -/

/-- Three cells side by side under eleven zero bits. -/
def packCells (x y z : BitVec 7) : Word := 0#11 ++ (x ++ (y ++ z))

theorem toNat_packCells (x y z : BitVec 7) :
    (packCells x y z).toNat = x.toNat * 128 ^ 2 + y.toNat * 128 + z.toNat := by
  have hyz := (y ++ z).isLt
  have hxyz := (x ++ (y ++ z)).isLt
  rw [packCells, BitVec.toNat_append, ← Nat.shiftLeft_add_eq_or_of_lt hxyz, BitVec.toNat_append,
    ← Nat.shiftLeft_add_eq_or_of_lt hyz, BitVec.toNat_append, ← Nat.shiftLeft_add_eq_or_of_lt z.isLt]
  simp only [BitVec.toNat_ofNat, Nat.shiftLeft_eq]
  omega

theorem toNat_shiftLeft_setWidth (x : BitVec 7) {k : Nat} (hk : k ≤ 14) :
    (x.setWidth 32 <<< k).toNat = x.toNat <<< k := by
  have hx := x.isLt
  have hpow : 2 ^ k ≤ 2 ^ 14 := Nat.pow_le_pow_right (by decide) hk
  have hshift : x.toNat * 2 ^ k ≤ 128 * 2 ^ 14 := Nat.mul_le_mul hx.le hpow
  rw [BitVec.toNat_shiftLeft, BitVec.toNat_setWidth, Nat.mod_eq_of_lt (a := x.toNat) (by omega),
    Nat.mod_eq_of_lt (by rw [Nat.shiftLeft_eq]; omega)]

theorem shifts_or_eq_packCells (x y z : BitVec 7) :
    (x.setWidth 32 <<< 14) ||| (y.setWidth 32 <<< 7) ||| z.setWidth 32 = packCells x y z := by
  apply BitVec.eq_of_toNat_eq
  rw [BitVec.toNat_or, BitVec.toNat_or, toNat_shiftLeft_setWidth x le_rfl,
    toNat_shiftLeft_setWidth y (by decide), BitVec.toNat_setWidth_of_le (by decide), packCells]
  simp only [BitVec.toNat_append, BitVec.toNat_ofNat, Nat.zero_mod, Nat.zero_shiftLeft, Nat.zero_or,
    Nat.or_assoc]

theorem extract_packCells (x y z : BitVec 7) :
    (packCells x y z).extractLsb' 14 7 = x ∧ (packCells x y z).extractLsb' 7 7 = y
      ∧ (packCells x y z).extractLsb' 0 7 = z ∧ (packCells x y z).extractLsb' 21 11 = 0#11 := by
  unfold packCells
  refine ⟨?_, ?_, ?_, BitVec.extractLsb'_append_eq_left⟩
  · rw [BitVec.extractLsb'_append_eq_of_add_le (by decide)]
    exact BitVec.extractLsb'_append_eq_left
  · rw [BitVec.extractLsb'_append_eq_of_add_le (by decide), BitVec.extractLsb'_append_eq_of_add_le (by decide)]
    exact BitVec.extractLsb'_append_eq_left
  · rw [BitVec.extractLsb'_append_eq_of_add_le (by decide), BitVec.extractLsb'_append_eq_of_add_le (by decide)]
    exact BitVec.extractLsb'_append_eq_right

theorem lutIdx_eq_packCells (q : QFormat) (x yz : Word) :
    lutIdx q x yz
      = packCells (cellBits q x) (cellBits q (yz.extractLsb' 16 16)) (cellBits q (yz.extractLsb' 0 16)) := by
  have hfrac := frac_le_thirteen q
  rw [← shifts_or_eq_packCells, cellBits_yField, cellBits_zField, cellBits, lutIdx]
  simp only [shift_mask_eq_extract, BitVec.extractLsb'_and, halfMask_extract, BitVec.and_allOnes]
  rw [oneWord_shifted_eq_twoPow, oneWord_eq_twoPow, extract_add_half x (by omega),
    extract_add_half (k := q.frac + 10) yz (by omega), extract_add_half (k := q.frac - 6) yz (by omega)]

/-! ### The index as a number and as bits (R164, R165) -/

/-- R165: the index is the claim's sum of the three cells. -/
theorem toNat_lutIdx (q : QFormat) (x yz : Word) :
    ((lutIdx q x yz).toNat : Int) = cell q x.toInt * 128 ^ 2 + cell q (yz.extractLsb' 16 16).toInt * 128
      + cell q (yz.extractLsb' 0 16).toInt := by
  have hfrac := frac_le_thirteen q
  rw [lutIdx_eq_packCells, toNat_packCells, ← toNat_cellBits_eq_cell (by omega),
    ← toNat_cellBits_eq_cell (by omega), ← toNat_cellBits_eq_cell (by omega)]
  push_cast
  rfl

theorem toNat_lutIdx_eq_indexOf (q : QFormat) (x yz : Word) : (lutIdx q x yz).toNat = indexOf q x yz := by
  rw [indexOf, ← toNat_lutIdx, Int.toNat_natCast]

theorem toNat_lutIdx_lt (q : QFormat) (x yz : Word) : (lutIdx q x yz).toNat < 2 ^ 21 := by
  rw [lutIdx_eq_packCells, toNat_packCells]
  omega

/-- The three fields of the index are the three cells' bits. -/
theorem extract_lutIdx (q : QFormat) (x yz : Word) :
    (lutIdx q x yz).extractLsb' 14 7 = cellBits q x
      ∧ (lutIdx q x yz).extractLsb' 7 7 = cellBits q (yz.extractLsb' 16 16)
      ∧ (lutIdx q x yz).extractLsb' 0 7 = cellBits q (yz.extractLsb' 0 16)
      ∧ (lutIdx q x yz).extractLsb' 21 11 = 0#11 := by
  rw [lutIdx_eq_packCells]
  exact extract_packCells ..

/-- Settles O17: the word LUTIDX delivers is `lutIdx`. -/
theorem lutidxCombinesCells : Obligations.LutidxCombinesCells :=
  ⟨(Encoding.decode_eq_ok_iff_eq_encode _ _).2 rfl, fun s =>
    ⟨_, toNat_lutIdx_eq_indexOf .., toNat_lutIdx_lt ..,
      congrArg Host.Outcome.next (Completion.finishCommand_ok s _ _)⟩⟩

/-- Settles O18: the fields of the index are `cellBits`, on words and on integers taken into words. -/
theorem cellIsHighBitsInverted : Obligations.CellIsHighBitsInverted := by
  refine ⟨fun q x yz => ?_, fun q cx cy cz => ?_⟩
  · rw [← cellBits_yField q yz, ← cellBits_zField q yz]
    exact extract_lutIdx q x yz
  · have hfrac := frac_le_thirteen q
    obtain ⟨hx, hy, hz, -⟩ :=
      extract_lutIdx q (BitVec.ofInt 32 cx) (BitVec.ofInt 16 cy ++ BitVec.ofInt 16 cz)
    rw [BitVec.extractLsb'_append_eq_left] at hy
    rw [BitVec.extractLsb'_append_eq_right] at hz
    dsimp only
    rw [hx, hy, hz]
    exact ⟨inCell_of_eq_cell (toNat_cellBits_ofInt (by omega) cx),
      inCell_of_eq_cell (toNat_cellBits_ofInt (by omega) cy),
      inCell_of_eq_cell (toNat_cellBits_ofInt (by omega) cz)⟩

/-! ### Distinct triples, and every index (R169) -/

/-- The coordinate at the low end of cell `k`. -/
def cellCoord (q : QFormat) (k : Nat) : Int := ((k : Int) - 64) * 2 ^ (q.frac - 6)

theorem cell_cellCoord (q : QFormat) {k : Nat} (hk : k < 128) : cell q (cellCoord q k) = k := by
  rw [cell_eq_emod, cellCoord, Int.mul_ediv_cancel _ (cellWidth_pos q).ne', sub_add_cancel]
  omega

/-- Every number below 2^21 is the index of a position: the low ends of the cells
its base-128 digits name. -/
theorem exists_toNat_lutIdx_eq (q : QFormat) {n : Nat} (hn : n < 2 ^ 21) :
    ∃ x yz : Word, (lutIdx q x yz).toNat = n := by
  have hfrac := frac_le_thirteen q
  refine ⟨BitVec.ofInt 32 (cellCoord q (n / 128 ^ 2)),
    BitVec.ofInt 16 (cellCoord q (n / 128 % 128)) ++ BitVec.ofInt 16 (cellCoord q (n % 128)), ?_⟩
  have hx := toNat_cellBits_ofInt (n := 32) (q := q) (by omega) (cellCoord q (n / 128 ^ 2))
  have hy := toNat_cellBits_ofInt (n := 16) (q := q) (by omega) (cellCoord q (n / 128 % 128))
  have hz := toNat_cellBits_ofInt (n := 16) (q := q) (by omega) (cellCoord q (n % 128))
  rw [cell_cellCoord q (by omega)] at hx hy hz
  rw [lutIdx_eq_packCells, toNat_packCells, BitVec.extractLsb'_append_eq_left,
    BitVec.extractLsb'_append_eq_right]
  omega

/-- Settles O19: equal indices have equal fields, whose values are the cells, and every number has a
position. -/
theorem indexPackingIsBijective : Obligations.IndexPackingIsBijective := by
  refine fun q => ⟨toNat_lutIdx_lt q, fun x yz x' yz' h => ?_, fun n hn => exists_toNat_lutIdx_eq q hn⟩
  have hfrac := frac_le_thirteen q
  obtain ⟨hx, hy, hz, -⟩ := extract_lutIdx q x yz
  obtain ⟨hx', hy', hz', -⟩ := extract_lutIdx q x' yz'
  rw [← h] at hx' hy' hz'
  exact ⟨cell_eq_of_cellBits_eq (by omega) (hx.symm.trans hx'),
    cell_eq_of_cellBits_eq (by omega) (hy.symm.trans hy'),
    cell_eq_of_cellBits_eq (by omega) (hz.symm.trans hz')⟩

end Sys2Proof.Proofs.Index
end

section
/-! PROOFS. LUTFETCH and LUTSAMPLE (41_lut_indexer.md R167, R168): one table read, and its two answers. -/

namespace Sys2Proof.Proofs.LutFetch

open Sys2Proof.Machine Sys2Proof.Proofs.Completion Sys2Proof.Proofs.Reads

/-- Settles O20: the index too large, and the two answers of the read. -/
theorem lutfetchReadsTheEntry : Obligations.LutfetchReadsTheEntry := by
  refine ⟨(Encoding.decode_eq_ok_iff_eq_encode _ _).2 rfl, fun s => ⟨fun hlarge => ?_, fun hlt hno => ?_,
    fun hlt hok => ?_⟩⟩
  · dsimp only [exec, execLutfetch]
    rw [if_pos (c := 2 ^ 21 ≤ idx _) hlarge, finishCommand_error]
  · dsimp only [exec, execLutfetch]
    rw [if_neg (c := 2 ^ 21 ≤ idx _) hlt.not_ge, fetchEntry_of_refused _ hno, finishCommand_error]
  · obtain ⟨e, n, hfetch, hread⟩ := fetchEntry_of_answered s.draws hok
    refine ⟨e, n, hread, ?_⟩
    dsimp only [exec, execLutfetch]
    rw [if_neg (c := 2 ^ 21 ≤ idx _) hlt.not_ge, hfetch, finishCommand_ok]
    rfl

/-- Settles O21: the two answers of the read at the position's index. -/
theorem lutsampleReadsThePosition : Obligations.LutsampleReadsThePosition := by
  refine ⟨(Encoding.decode_eq_ok_iff_eq_encode _ _).2 rfl, fun s => ?_⟩
  dsimp only
  rw [← Index.toNat_lutIdx_eq_indexOf, BitVec.ofNat_toNat, BitVec.setWidth_eq]
  refine ⟨fun hno => ?_, fun hok => ?_⟩
  · dsimp only [exec, execLutsample]
    rw [fetchEntry_of_refused _ hno, finishCommand_error]
  · obtain ⟨e, n, hfetch, hread⟩ := fetchEntry_of_answered s.draws hok
    refine ⟨e, n, hread, ?_⟩
    dsimp only [exec, execLutsample]
    rw [hfetch, finishCommand_ok]
    rfl

end Sys2Proof.Proofs.LutFetch
end

section
/-! PROOFS. The raymarch loop (42_raymarcher.md R180 to R186): after the entries `pre`, none of them a hit,
the loop stands at the position they lead to with their sums, and so it ends as the claim's ray does. -/

namespace Sys2Proof.Proofs.March

open Sys2Proof.Machine Sys2Proof.Claims Sys2Proof.Proofs.Completion Sys2Proof.Proofs.Reads

/-! ### One iteration (R184) -/

section Iteration

variable {s : State} {c : Cfg} {dx dyz x yz e : Word} {rem n m : Nat} {o : MarchOut}

theorem marchLoop_zero : marchLoop s c dx dyz 0 x yz o n = (some o, n) := rfl

theorem marchLoop_of_refused (h : s.fetchEntry c n (lutIdx s.build.q x yz) = (none, m)) :
    marchLoop s c dx dyz (rem + 1) x yz o n = (none, m) := by
  simp only [marchLoop, h]

theorem marchLoop_of_hit (h : s.fetchEntry c n (lutIdx s.build.q x yz) = (some e, m)) (he : entryD e = 0) :
    marchLoop s c dx dyz (rem + 1) x yz o n
      = (some ⟨o.ar + entryR e * (rem + 1), o.ag + entryG e * (rem + 1), o.ab + entryB e * (rem + 1),
          o.fetches + 1, true⟩, m) := by
  simp only [marchLoop, h, if_pos he]

theorem marchLoop_of_miss (h : s.fetchEntry c n (lutIdx s.build.q x yz) = (some e, m)) (he : entryD e ≠ 0) :
    marchLoop s c dx dyz (rem + 1) x yz o n
      = marchLoop s c dx dyz rem
          (x + dx * BitVec.ofNat 32 (entryD e)) (yz + dyz * BitVec.ofNat 32 (entryD e))
          ⟨o.ar + entryR e, o.ag + entryG e, o.ab + entryB e, o.fetches + 1, false⟩ m := by
  simp only [marchLoop, h, if_neg he]

end Iteration

/-! ### Where the loop stands after some entries -/

/-- The address of the entry a ray fetches after the entries `pre`. -/
def nextAddr (s : State) (c : Cfg) (ray : Ray) (pre : List Word) : Word :=
  tableAddr c (indexOf s.build.q (posX ray (travelled pre)) (posYZ ray (travelled pre)))

/-- The loop's accumulators and fetch count after the entries `pre`, none of them a hit. -/
def accumulated (pre : List Word) : MarchOut :=
  ⟨(pre.map entryR).sum, (pre.map entryG).sum, (pre.map entryB).sum, pre.length, false⟩

/-- The loop after the entries `pre`, `rem` iterations left. -/
def marchFrom (s : State) (c : Cfg) (ray : Ray) (pre : List Word) (rem n : Nat) : Option MarchOut × Nat :=
  marchLoop s c ray.dx ray.dyz rem (posX ray (travelled pre)) (posYZ ray (travelled pre)) (accumulated pre) n

theorem posX_travelled_nil (ray : Ray) : posX ray (travelled []) = ray.x := by
  simp [posX, travelled]

theorem posYZ_travelled_nil (ray : Ray) : posYZ ray (travelled []) = ray.yz := by
  simp [posYZ, travelled]

theorem posX_travelled_concat (ray : Ray) (pre : List Word) (e : Word) :
    posX ray (travelled (pre ++ [e])) = posX ray (travelled pre) + ray.dx * BitVec.ofNat 32 (entryD e) := by
  simp only [posX, travelled, List.map_append, List.map_singleton, List.sum_append, List.sum_singleton,
    BitVec.ofNat_add, BitVec.mul_add, BitVec.add_assoc]

theorem posYZ_travelled_concat (ray : Ray) (pre : List Word) (e : Word) :
    posYZ ray (travelled (pre ++ [e])) = posYZ ray (travelled pre) + ray.dyz * BitVec.ofNat 32 (entryD e) := by
  simp only [posYZ, travelled, List.map_append, List.map_singleton, List.sum_append, List.sum_singleton,
    BitVec.ofNat_add, BitVec.mul_add, BitVec.add_assoc]

theorem accumulated_concat (pre : List Word) (e : Word) :
    accumulated (pre ++ [e])
      = ⟨(accumulated pre).ar + entryR e, (accumulated pre).ag + entryG e, (accumulated pre).ab + entryB e,
          (accumulated pre).fetches + 1, false⟩ := by
  simp only [accumulated, List.map_append, List.map_singleton, List.sum_append, List.sum_singleton,
    List.length_append, List.length_singleton]

theorem march_eq_marchFrom (s : State) (c : Cfg) (ray : Ray) (n : Nat) :
    march s c ray n = marchFrom s c ray [] c.marchN.toNat n := by
  rw [marchFrom, posX_travelled_nil, posYZ_travelled_nil]
  rfl

theorem marchFrom_of_miss {s : State} {c : Cfg} {ray : Ray} {pre : List Word} {rem n m : Nat} {e : Word}
    (h : s.fetchEntry c n (lutIdx s.build.q (posX ray (travelled pre)) (posYZ ray (travelled pre))) = (some e, m))
    (he : entryD e ≠ 0) : marchFrom s c ray pre (rem + 1) n = marchFrom s c ray (pre ++ [e]) rem m := by
  rw [marchFrom, marchLoop_of_miss h he, marchFrom, posX_travelled_concat, posYZ_travelled_concat,
    accumulated_concat]

/-! ### The entries a ray fetches (R181) -/

theorem fetched_nil (s : State) (c : Cfg) (ray : Ray) : fetched s c ray [] :=
  fun k hk => absurd hk (Nat.not_lt_zero k)

theorem fetched_concat {s : State} {c : Cfg} {ray : Ray} {pre : List Word} {e : Word}
    (hpre : fetched s c ray pre) (he : mayRead s (nextAddr s c ray pre) .word e) :
    fetched s c ray (pre ++ [e]) := by
  intro k hk
  rw [List.length_append, List.length_singleton] at hk
  rcases Nat.lt_or_eq_of_le (Nat.le_of_lt_succ hk) with hlt | rfl
  · rw [List.take_append_of_le_length hlt.le, List.getElem_append_left hlt]
    exact hpre k hlt
  · rw [List.take_left, List.getElem_concat_length rfl]
    exact he

/-- The next fetch of a ray: an error response, or an entry the ray may read there. -/
theorem nextFetch_cases (s : State) (c : Cfg) (ray : Ray) (pre : List Word) (n : Nat) :
    let r := s.fetchEntry c n (lutIdx s.build.q (posX ray (travelled pre)) (posYZ ray (travelled pre)))
    (Build.busOk s.build (nextAddr s c ray pre) .word .read = false ∧ r = (none, n))
      ∨ ∃ e m, r = (some e, m) ∧ mayRead s (nextAddr s c ray pre) .word e := by
  rw [nextAddr, ← Index.toNat_lutIdx_eq_indexOf]
  cases hok : Build.busOk s.build _ .word .read with
  | false => exact .inl ⟨rfl, fetchEntry_of_refused n hok⟩
  | true => exact .inr (fetchEntry_of_answered n hok)

/-! ### The whole loop (R182, R184) -/

/-- The loop's end as the claim's. -/
def rayEndOf (o : MarchOut) : RayEnd := ⟨o.ar, o.ag, o.ab, o.fetches, o.hit⟩

/-- The loop's answer is the claim's ray: it ends as the answer says, or it fails and there is none. -/
def FollowsRay (s : State) (c : Cfg) (ray : Ray) (r : Option MarchOut) : Prop :=
  (∃ o, r = some o ∧ rayEnds s c ray (rayEndOf o)) ∨ (r = none ∧ rayFails s c ray)

/-- The loop from any point of the ray, by induction on the iterations left. -/
theorem marchFrom_followsRay {s : State} {c : Cfg} {ray : Ray} (rem : Nat) {pre : List Word} (n : Nat)
    (hmiss : ∀ e ∈ pre, entryD e ≠ 0) (hfetched : fetched s c ray pre)
    (hrem : pre.length + rem = c.marchN.toNat) : FollowsRay s c ray (marchFrom s c ray pre rem n).1 := by
  induction rem generalizing pre n with
  | zero =>
    rw [marchFrom, marchLoop_zero]
    exact .inl ⟨_, rfl, pre, hmiss, .inr ⟨hrem, hfetched, rfl, rfl, rfl, rfl, rfl⟩⟩
  | succ rem ih =>
    have hlt : pre.length < c.marchN.toNat := by omega
    rcases nextFetch_cases s c ray pre n with ⟨hno, hfetch⟩ | ⟨e, m, hfetch, hread⟩
    · rw [marchFrom, marchLoop_of_refused hfetch]
      exact .inr ⟨rfl, pre, hmiss, hlt, hfetched, hno⟩
    have hfetched' := fetched_concat hfetched hread
    by_cases he : entryD e = 0
    · have hleft : rem + 1 = c.marchN.toNat - pre.length := by omega
      rw [marchFrom, marchLoop_of_hit hfetch he, hleft]
      exact .inl ⟨_, rfl, pre, hmiss, .inl ⟨e, he, hlt, hfetched', rfl, rfl, rfl, rfl, rfl⟩⟩
    · rw [marchFrom_of_miss hfetch he]
      have hmiss' : ∀ e' ∈ pre ++ [e], entryD e' ≠ 0 :=
        List.forall_mem_append.2 ⟨hmiss, List.forall_mem_singleton.2 he⟩
      refine ih m hmiss' hfetched' ?_
      rw [List.length_append, List.length_singleton]
      omega

theorem march_followsRay (s : State) (c : Cfg) (ray : Ray) (n : Nat) :
    FollowsRay s c ray (march s c ray n).1 := by
  rw [march_eq_marchFrom]
  exact marchFrom_followsRay _ n (List.forall_mem_nil _) (fetched_nil s c ray) (Nat.zero_add _)

theorem fetches_le_of_rayEnds {s : State} {c : Cfg} {ray : Ray} {o : RayEnd} (h : rayEnds s c ray o) :
    o.fetches ≤ c.marchN.toNat := by
  obtain ⟨pre, -, ⟨e, -, hlt, -, -, -, -, hcount, -⟩ | ⟨hlen, -, -, -, -, hcount, -⟩⟩ := h
  · omega
  · omega

/-! ### Pixel and info word (R185, R186) -/

theorem fieldAt_eq_ofNat (v k : Nat) : fieldAt v k = BitVec.ofNat 32 (v <<< k) := by
  apply BitVec.eq_of_toNat_eq
  rw [fieldAt, BitVec.toNat_shiftLeft, BitVec.toNat_ofNat, BitVec.toNat_ofNat, Nat.shiftLeft_eq, Nat.shiftLeft_eq,
    Nat.mod_mul_mod]

/-- A field above a number that stays below it. -/
theorem fieldAt_or_ofNat {v k r : Nat} (h : r < 2 ^ k) :
    fieldAt v k ||| BitVec.ofNat 32 r = BitVec.ofNat 32 (v * 2 ^ k + r) := by
  rw [fieldAt_eq_ofNat, ← BitVec.ofNat_or, ← Nat.shiftLeft_add_eq_or_of_lt h, Nat.shiftLeft_eq]

theorem fieldAt_zero (v : Nat) : fieldAt v 0 = BitVec.ofNat 32 v := fieldAt_eq_ofNat v 0

theorem shiftAmounts_eq (c : Cfg) :
    c.shr = c.shifts.toNat % 16 ∧ c.shg = c.shifts.toNat / 16 % 16 ∧ c.shb = c.shifts.toNat / 256 % 16
      ∧ c.shl = c.shifts.toNat / 4096 := by
  have hlt := c.shifts.isLt
  simp only [Cfg.shr, Cfg.shg, Cfg.shb, Cfg.shl, BitVec.extractLsb'_toNat, Nat.shiftRight_eq_div_pow,
    Nat.reducePow, Nat.div_one, true_and]
  omega

theorem pixel_eq_pixelOf (o : MarchOut) (c : Cfg) (f : PixFmt) : o.pixel c f = pixelOf c f (rayEndOf o) := by
  obtain ⟨hr, hg, hb, hl⟩ := shiftAmounts_eq c
  cases f with
  | rgb565 =>
    have hblue : o.ab / 2 ^ (c.shifts.toNat / 256 % 16) % 32 < 2 ^ 5 := Nat.mod_lt _ (by decide)
    simp only [MarchOut.pixel, reduce, pixelOf, rayEndOf, hr, hg, hb, Nat.shiftRight_eq_div_pow, fieldAt_zero]
    rw [BitVec.or_assoc, fieldAt_or_ofNat hblue, fieldAt_or_ofNat (by omega)]
    simp only [Nat.reducePow, Nat.add_assoc]
  | l8 => simp only [MarchOut.pixel, reduce, pixelOf, rayEndOf, hl, Nat.shiftRight_eq_div_pow, fieldAt_zero]

theorem info_eq {o : MarchOut} (h : o.fetches < 256) :
    o.info = BitVec.ofNat 32 ((if o.hit then 256 else 0) + o.fetches) := by
  cases hhit : o.hit with
  | false => simp only [MarchOut.info, hhit, bitAt, Bool.false_eq_true, if_false, BitVec.zero_or, Nat.zero_add]
  | true =>
    rw [MarchOut.info, hhit]
    exact fieldAt_or_ofNat (v := 1) (k := 8) h

/-! ### The ends of a command that marches (R184, R109) -/

theorem finishCommand_marchResult_none (s : State) (c : Cfg) (f : PixFmt) (n : Nat) :
    s.finishCommand n false (marchResult c f none) = ended s .buserr n := finishCommand_error s n .buserr

theorem finishCommand_marchResult_some (s : State) (c : Cfg) (f : PixFmt) (n : Nat) {o : MarchOut}
    (h : o.fetches < 256) :
    s.finishCommand n false (marchResult c f (some o)) = endedWithPixel s c f (rayEndOf o) n := by
  rw [marchResult, finishCommand_ok, pixel_eq_pixelOf, info_eq h]
  rfl

/-- Settles O22: the ray of the latched operands, and the two ends of the command. -/
theorem marchFollowsTheLoop : Obligations.MarchFollowsTheLoop := by
  refine ⟨(Encoding.decode_eq_ok_iff_eq_encode _ _).2 rfl, ?_⟩
  intro s l ray
  refine ⟨(march s l.cfg ray s.draws).2, ?_⟩
  have hexec : exec .march s = .next (s.finishCommand (march s l.cfg ray s.draws).2 false
      (marchResult l.cfg l.pixfmt (march s l.cfg ray s.draws).1)) := rfl
  rw [hexec]
  rcases march_followsRay s l.cfg ray s.draws with ⟨o, hsome, hends⟩ | ⟨hnone, hfails⟩
  · have hcount : o.fetches < 256 := (fetches_le_of_rayEnds hends).trans_lt (BitVec.isLt _)
    rw [hsome, finishCommand_marchResult_some _ _ _ _ hcount]
    exact .inl ⟨_, hends, rfl⟩
  · rw [hnone, finishCommand_marchResult_none]
    exact .inr ⟨hfails, rfl⟩

end Sys2Proof.Proofs.March
end

section
/-! PROOFS. Frame constants (43_frame_controller.md R200, R203): cos and sin of the frame's angle and the
z offset in word arithmetic, or DOMAIN. -/

namespace Sys2Proof.Proofs.FrameConstants

open Sys2Proof.Machine Sys2Proof.Claims Sys2Proof.Proofs.Completion Sys2Proof.Proofs.Cossin

/-- The frame's angle (R200). -/
def frameAngle (c : Cfg) : Int := (c.rotFrame.toNat : Int) * c.rotStep.toNat

theorem natCast_rotation (c : Cfg) : ((c.rotFrame.toNat * c.rotStep.toNat : Nat) : Int) = frameAngle c :=
  Nat.cast_mul ..

theorem frameAngle_nonneg (c : Cfg) : 0 ≤ frameAngle c := by
  unfold frameAngle
  positivity

/-- R200: the product of the counter and the signed step, modulo 2^32, is their product as words. -/
theorem trunc32_natCast_mul (n : Half) (v : Word) :
    trunc32 ((n.toNat : Int) * i32 v) = n.setWidth 32 * v := by
  rw [trunc32, i32, BitVec.ofInt_mul, BitVec.ofInt_toInt, BitVec.ofInt_natCast, BitVec.ofNat_toNat]

theorem frameConst_eq_none {q : QFormat} {c : Cfg} (h : 4 * one q ≤ frameAngle c) : frameConst q c = none := by
  rw [frameConst, natCast_rotation, cossin_eq_none (.inr h)]

theorem frameConst_eq_some {q : QFormat} {c : Cfg} (h : ¬ 4 * one q ≤ frameAngle c) :
    frameConst q c = some (BitVec.ofInt 32 (cosSin q (frameAngle c)).1,
      BitVec.ofInt 32 (cosSin q (frameAngle c)).2, c.transFrame.setWidth 32 * c.transStep) := by
  have hlegal : ¬ (frameAngle c < 0 ∨ 4 * one q ≤ frameAngle c) := not_or.2 ⟨(frameAngle_nonneg c).not_gt, h⟩
  rw [frameConst, natCast_rotation, cossin_eq_some hlegal, trunc32_natCast_mul]

/-- Settles O25: the angle past the four quadrants, and the angle inside. -/
theorem framepreComputesConstants : Obligations.FramepreComputesConstants := by
  refine ⟨(Encoding.decode_eq_ok_iff_eq_encode _ _).2 rfl, fun s => ?_⟩
  dsimp only [exec, execFramepre]
  by_cases h : 4 * one s.build.q ≤ frameAngle (s.running .framepre).cfg
  · rw [frameConst_eq_none h, finishCommand_error]
    exact congrArg _ (if_pos h).symm
  · rw [frameConst_eq_some h, finishCommand_ok]
    exact congrArg _ (if_neg h).symm

end Sys2Proof.Proofs.FrameConstants
end

section
/-! PROOFS. RAYGEN and PIXEL (43_frame_controller.md R201, R204): the model's integers, truncated, are the
claim's words; the ray is then marched as MARCH does it. -/

namespace Sys2Proof.Proofs.RayGen

open Sys2Proof.Machine Sys2Proof.Claims Sys2Proof.Proofs.Rot2d Sys2Proof.Proofs.March

/-! ### Word arithmetic (R13, R162) -/

theorem trunc32_add (v w : Int) : trunc32 (v + w) = trunc32 v + trunc32 w := BitVec.ofInt_add ..

theorem trunc32_mul (v w : Int) : trunc32 (v * w) = trunc32 v * trunc32 w := BitVec.ofInt_mul ..

theorem trunc32_natCast (n : Nat) : trunc32 n = BitVec.ofNat 32 n := BitVec.ofInt_natCast ..

theorem trunc32_i32 (v : Word) : trunc32 (i32 v) = v := BitVec.ofInt_toInt

theorem trunc32_asr_i32 (v : Word) (n : Nat) : trunc32 (asr (i32 v) n) = v.sshiftRight n := by
  rw [trunc32_asr, BitVec.sshiftRight, Int.shiftRight_eq_div_pow, i32]
  norm_cast

/-- R162: the packed YZ word in word arithmetic. -/
theorem packYZ_eq (y z : Int) : packYZ y z = trunc32 y <<< 16 + trunc32 z := by
  rw [packYZ, trunc32_add, trunc32_mul, BitVec.shiftLeft_eq_mul_twoPow]
  rfl

/-! ### RAYGEN (R201) -/

/-- R201: the ray in word arithmetic, and the check of its ten values. -/
theorem rayGen_eq (q : QFormat) (v : View) (x y : Nat) :
    rayGen q v x y = (rayOf q v x y, chkAny (screen v.cfg x y
      ++ rotChecked (screenU v.cfg x).toInt (screenV v.cfg y).toInt v.fcos.toInt v.fsin.toInt)) := by
  have hu : trunc32 (x * i32 v.cfg.pixStep + i32 v.cfg.u0) = screenU v.cfg x := by
    rw [trunc32_add, trunc32_mul, trunc32_natCast, trunc32_i32, trunc32_i32, screenU]
  have hv : trunc32 (y * i32 v.cfg.pixStep + i32 v.cfg.v0) = screenV v.cfg y := by
    rw [trunc32_add, trunc32_mul, trunc32_natCast, trunc32_i32, trunc32_i32, screenV]
  simp only [rayGen, rayOf, hu, hv, rot2d_eq, packYZ_eq, trunc32_asr_i32, trunc32_add, trunc32_i32, chkAny,
    List.any_append]
  rfl

theorem rayGen_overflow_iff (q : QFormat) (v : View) (x y : Nat) :
    (rayGen q v x y).2 = true ↔ rayOverflows v x y := by
  rw [rayGen_eq, chkAny_iff, rayOverflows]

/-! ### PIXEL (R204) -/

theorem xyX_eq (a : Word) : xyX a = a.toNat % 65536 := by
  rw [xyX, BitVec.extractLsb'_toNat, Nat.shiftRight_zero]

theorem xyY_eq (a : Word) : xyY a = a.toNat / 65536 := by
  have ha := a.isLt
  rw [xyY, BitVec.extractLsb'_toNat, Nat.shiftRight_eq_div_pow, Nat.mod_eq_of_lt (by omega)]

/-- A completion that reports `ovf` differs from one that does not in OVF only (R256). -/
theorem finishCommand_eq_with_ovf (s : State) (n : Nat) (ovf : Bool) (r : Except ErrCode Results) :
    s.finishCommand n ovf r = { s.finishCommand n false r with
      flags := { s.flags with cmddone := true, ovf := s.flags.ovf || ovf } } := by
  cases r <;> rfl

/-- Settles O26: RAYGEN's ray and check, and the two ends of its march. -/
theorem pixelMarchesItsRay : Obligations.PixelMarchesItsRay := by
  refine ⟨(Encoding.decode_eq_ok_iff_eq_encode _ _).2 rfl, fun s => ?_⟩
  intro l v x y ray
  refine ⟨(march s l.cfg ray s.draws).2, s.flags.ovf || (rayGen s.build.q v x y).2,
    by rw [Bool.or_eq_true, rayGen_overflow_iff], ?_⟩
  have hexec : exec .pixel s = .next (s.finishCommand (march s l.cfg ray s.draws).2 (rayGen s.build.q v x y).2
      (marchResult l.cfg l.pixfmt (march s l.cfg ray s.draws).1)) := by
    have hray : (rayGen s.build.q v x y).1 = ray := by rw [rayGen_eq]
    dsimp only [exec, execPixel]
    rw [xyX_eq, xyY_eq, ← hray]
    rfl
  rw [hexec, finishCommand_eq_with_ovf]
  rcases march_followsRay s l.cfg ray s.draws with ⟨o, hsome, hends⟩ | ⟨hnone, hfails⟩
  · have hcount : o.fetches < 256 := (fetches_le_of_rayEnds hends).trans_lt (BitVec.isLt _)
    rw [hsome, finishCommand_marchResult_some _ _ _ _ hcount]
    exact .inl ⟨_, hends, rfl⟩
  · rw [hnone, finishCommand_marchResult_none]
    exact .inr ⟨hfails, rfl⟩

end Sys2Proof.Proofs.RayGen
end

section
/-! PROOFS. Framebuffer accesses (43_frame_controller.md R215, R216; 10_state.md R54; 20_memory.md R80): the
address, the pixel classes and the two answers of a pixel read or write, in the claims' words. -/

namespace Sys2Proof.Proofs.Framebuffer

open Sys2Proof.Machine Sys2Proof.Claims Sys2Proof.Proofs.Reads

theorem posWord_eq_position (y x : Nat) : posWord y x = position y x := by
  apply BitVec.eq_of_toNat_eq
  rw [posWord, position, BitVec.toNat_append, ← Nat.shiftLeft_add_eq_or_of_lt (BitVec.isLt _)]
  simp only [BitVec.toNat_ofNat, Nat.shiftLeft_eq]
  omega

/-- R80: the address of a pixel in word arithmetic. -/
theorem fbAddr_eq_pixelAddr (sn : Snap) (x y : Nat) : sn.fbAddr x y = pixelAddr sn x y := by
  rw [Snap.fbAddr, pixelAddr, BitVec.ofNat_add, BitVec.ofNat_add, BitVec.ofNat_mul, BitVec.ofNat_mul,
    BitVec.ofNat_toNat, BitVec.ofNat_toNat, BitVec.setWidth_eq, Snap.bpp]
  cases sn.pixfmt <;> rfl

theorem width_eq_pixelWidth (f : PixFmt) : f.width = pixelWidth f := by cases f <;> rfl

theorem stored_store (m : Memory) (a : Word) (w : Width) (v : Word) :
    stored m (Memory.store m w.bytes a v) a w v :=
  fun b => Memory.get_store m w.bytes a v b (w.bytes_le.trans_lt (by decide))

theorem torn_storeSome (m : Memory) (n : Nat) (a : Word) (w : Width) (v : Word) :
    torn m (Memory.storeSome m w.bytes n a v) a w v :=
  fun b => Memory.get_storeSome m w.bytes n a v b (w.bytes_le.trans_lt (by decide))

/-- A pixel write is the claim's: stored and gone on with, or torn and SfcFault(BUSERR). -/
theorem pixelWritten_writePixelThen (s : State) (x y : Nat) (v : Word) (k : State → State) :
    pixelWritten s x y v (fun m => k { s with mem := m }) (s.writePixelThen x y v k) := by
  have hcases := s.writePixelThen_cases x y v k
  rw [fbAddr_eq_pixelAddr, width_eq_pixelWidth] at hcases
  rcases hcases with ⟨hok, h⟩ | ⟨hno, h⟩
  · rw [h]
    exact (if_pos hok).mpr ⟨_, stored_store _ _ _ _, rfl⟩
  · rw [h]
    exact (if_neg (Bool.not_eq_true _ ▸ hno)).mpr ⟨_, torn_storeSome _ _ _ _ _, rfl⟩

/-- A pixel write after which the cursor moves on (R214). -/
theorem pixelWritten_advance {s : State} {c : Cursor} (h : s.sfc.cursor = c) (x y : Nat) (v : Word) :
    pixelWritten s x y v (fun m => { s with mem := m, sfc := { s.sfc with cursor := s.sfc.snap.nextCursor c } })
      (s.writePixelThen x y v State.advanceCursor) := by
  subst h
  exact pixelWritten_writePixelThen ..

/-- The two answers of a pixel read (R71, R77). -/
theorem readPixel_cases (s : State) (n x y : Nat) :
    (s.readPixel n x y = (none, n) ∧ pixelFails s (x, y))
      ∨ ∃ v m, s.readPixel n x y = (some v, m) ∧ pixelRead s (x, y) v := by
  rw [State.readPixel, fbAddr_eq_pixelAddr, width_eq_pixelWidth]
  cases hok : Build.busOk s.build (pixelAddr s.sfc.snap x y) (pixelWidth s.sfc.snap.pixfmt) .read with
  | false => exact .inl ⟨busRead_of_refused n hok, hok⟩
  | true => exact .inr (busRead_of_answered n hok)

/-! ### Turns of the active phase (R224) -/

theorem sfcTurn_of_active {s : State} (h : s.sfc.phase = .active) : s.sfcTurn = s.activeStep := by
  rw [State.sfcTurn, h]

/-- A SYNC that is OK (R207): its operation runs, with CUR_POS written. -/
theorem guarded_of_ok {s : State} {y : Nat} (hlatch : s.sfc.lateLatch = false)
    (hline : s.sfc.snap.cfg.voff.toNat + y < s.line.toNat) (x : Nat) (op : State → State) :
    s.guarded x y op = op { s with curPos := position y x } := by
  rcases s.guarded_cases x y op with ⟨hlate, -⟩ | ⟨-, -, h⟩ | ⟨-, hhold, -⟩
  · rw [hlatch] at hlate
    cases hlate
  · rw [h, posWord_eq_position]
  · omega

end Sys2Proof.Proofs.Framebuffer
end

section
/-! PROOFS. RENDER (43_frame_controller.md R202, R215): the ray of the pixel, and its value written. -/

namespace Sys2Proof.Proofs.Render

open Sys2Proof.Machine Sys2Proof.Claims Sys2Proof.Proofs.RayGen Sys2Proof.Proofs.March
  Sys2Proof.Proofs.Framebuffer

/-- RENDER(x, y) once its ray is marched (R201, R215): OVF noted and the draws made. -/
def rayMarched (s : State) (x y : Nat) : State :=
  { s.noteOvf (rayGen s.build.q s.sfc.view x y).2 with
    draws := (march s s.sfc.snap.cfg (rayOf s.build.q s.sfc.view x y) s.draws).2 }

/-- R215: a rendered pixel by the end of its ray. -/
theorem renderPixel_cases (s : State) (x y : Nat) :
    (∃ o, rayEnds s s.sfc.snap.cfg (rayOf s.build.q s.sfc.view x y) o
        ∧ s.renderPixel x y = (rayMarched s x y).writePixelThen x y
            (pixelOf s.sfc.snap.cfg s.sfc.snap.pixfmt o) State.advanceCursor)
      ∨ (rayFails s s.sfc.snap.cfg (rayOf s.build.q s.sfc.view x y)
        ∧ s.renderPixel x y = (rayMarched s x y).raiseSfcFault .buserr) := by
  have hray : (rayGen s.build.q s.sfc.view x y).1 = rayOf s.build.q s.sfc.view x y := by rw [rayGen_eq]
  have hcfg : s.sfc.view.cfg = s.sfc.snap.cfg := rfl
  simp only [State.renderPixel, hray, hcfg]
  rcases march_followsRay s s.sfc.snap.cfg (rayOf s.build.q s.sfc.view x y) s.draws with
    ⟨o, hsome, hends⟩ | ⟨hnone, hfails⟩
  · rw [hsome]
    refine .inl ⟨_, hends, ?_⟩
    rw [← pixel_eq_pixelOf]
    rfl
  · rw [hnone]
    exact .inr ⟨hfails, rfl⟩

/-- Settles O44: the SYNC passes, and the pixel is rendered on the state with CUR_POS written. -/
theorem renderWritesThePixelValue : Obligations.RenderWritesThePixelValue := by
  intro s x y hphase hcursor hlatch hline sn v
  let s0 : State := { s with curPos := position y x }
  have hturn : s.sfcTurn = s0.renderPixel x y := by
    rw [sfcTurn_of_active hphase, State.activeStep, hcursor]
    exact guarded_of_ok hlatch hline x _
  refine ⟨_, (rayMarched s0 x y).draws, s.flags.ovf || (rayGen s.build.q v x y).2,
    congrArg Host.Outcome.next hturn, by rw [Bool.or_eq_true, rayGen_overflow_iff], ?_⟩
  rcases renderPixel_cases s0 x y with ⟨o, hends, h⟩ | ⟨hfails, h⟩
  · rw [h]
    exact .inl ⟨o, hends, pixelWritten_advance (s := rayMarched s0 x y) hcursor x y _⟩
  · exact .inr ⟨hfails, h⟩

end Sys2Proof.Proofs.Render
end

section
/-! PROOFS. RECON (43_frame_controller.md R216, R217): four reads, their floor mean, one write. -/

namespace Sys2Proof.Proofs.Reconstruction

open Sys2Proof.Machine Sys2Proof.Claims Sys2Proof.Proofs.March Sys2Proof.Proofs.Framebuffer

/-! ### AVG4 (R217) -/

/-- One field of four pixels, averaged with floor. -/
def meanField (lo n : Nat) (a b c d : Word) : Nat :=
  (a.toNat / 2 ^ lo % 2 ^ n + b.toNat / 2 ^ lo % 2 ^ n + c.toNat / 2 ^ lo % 2 ^ n + d.toNat / 2 ^ lo % 2 ^ n) / 4

theorem avgField_eq_meanField (lo n : Nat) (a b c d : Word) : avgField lo n a b c d = meanField lo n a b c d := by
  simp only [avgField, meanField, BitVec.extractLsb'_toNat, Nat.shiftRight_eq_div_pow]

theorem meanField_lt (lo n : Nat) (a b c d : Word) : meanField lo n a b c d < 2 ^ n := by
  have hpos : 0 < 2 ^ n := Nat.two_pow_pos n
  have ha := Nat.mod_lt (a.toNat / 2 ^ lo) hpos
  have hb := Nat.mod_lt (b.toNat / 2 ^ lo) hpos
  have hc := Nat.mod_lt (c.toNat / 2 ^ lo) hpos
  have hd := Nat.mod_lt (d.toNat / 2 ^ lo) hpos
  unfold meanField
  omega

theorem avg4_eq_mean4 (f : PixFmt) (a b c d : Word) : avg4 f a b c d = mean4 f a b c d := by
  cases f with
  | rgb565 =>
    have hgreen := meanField_lt 5 6 a b c d
    have hblue := meanField_lt 0 5 a b c d
    simp only [avg4, avgField_eq_meanField, fieldAt_zero]
    rw [BitVec.or_assoc, fieldAt_or_ofNat hblue, fieldAt_or_ofNat (by omega), ← Nat.add_assoc]
    rfl
  | l8 => exact fieldAt_zero _

/-! ### The four reads (R216) -/

theorem neighbourReads_eq (sn : Snap) (x r : Nat) :
    let p := sn.neighbours x r
    neighbourReads sn x r = [p.1, p.2.1, p.2.2.1, p.2.2.2].map fun t => sn.finalAt t.1 t.2 := by
  have hflip : ∀ n : Nat, (if n = 0 then n + 1 else n - 1) = if 1 ≤ n then n - 1 else n + 1 := by
    intro n
    split <;> split <;> omega
  have hnext : ∀ n m : Nat, (if n + 1 < m then n + 1 else n - 1) = if n + 2 ≤ m then n + 1 else n - 1 :=
    fun _ _ => rfl
  simp only [neighbourReads, hflip, hnext]
  rfl

theorem readFinal_cases (s : State) (n : Nat) (p : Nat × Nat) :
    (s.readFinal n p = (none, n) ∧ pixelFails s (s.sfc.snap.finalAt p.1 p.2))
      ∨ ∃ v m, s.readFinal n p = (some v, m) ∧ pixelRead s (s.sfc.snap.finalAt p.1 p.2) v :=
  readPixel_cases s n _ _

/-- R216: the four reads in order, or the first that fails. -/
theorem readFour_cases (s : State) (n x r : Nat) :
    (∃ a b c d m, s.readFour n x r = (some (a, b, c, d), m)
        ∧ List.Forall₂ (pixelRead s) (neighbourReads s.sfc.snap x r) [a, b, c, d])
      ∨ (∃ m, s.readFour n x r = (none, m)) ∧ ∃ p ∈ neighbourReads s.sfc.snap x r, pixelFails s p := by
  rw [neighbourReads_eq]
  generalize hp : s.sfc.snap.neighbours x r = p
  obtain ⟨p1, p2, p3, p4⟩ := p
  simp only [List.map_cons, List.map_nil, List.forall₂_cons, List.mem_cons, exists_eq_or_imp]
  rcases readFinal_cases s n p1 with ⟨ha, hfail⟩ | ⟨a, m1, ha, hra⟩
  · exact .inr ⟨⟨n, by simp only [State.readFour, hp, ha]⟩, .inl hfail⟩
  rcases readFinal_cases s m1 p2 with ⟨hb, hfail⟩ | ⟨b, m2, hb, hrb⟩
  · exact .inr ⟨⟨m1, by simp only [State.readFour, hp, ha, hb]⟩, .inr (.inl hfail)⟩
  rcases readFinal_cases s m2 p3 with ⟨hc, hfail⟩ | ⟨c, m3, hc, hrc⟩
  · exact .inr ⟨⟨m2, by simp only [State.readFour, hp, ha, hb, hc]⟩, .inr (.inr (.inl hfail))⟩
  rcases readFinal_cases s m3 p4 with ⟨hd, hfail⟩ | ⟨d, m4, hd, hrd⟩
  · exact .inr ⟨⟨m3, by simp only [State.readFour, hp, ha, hb, hc, hd]⟩, .inr (.inr (.inr (.inl hfail)))⟩
  · exact .inl ⟨a, b, c, d, m4, by simp only [State.readFour, hp, ha, hb, hc, hd], hra, hrb, hrc, hrd, .nil⟩

/-- Settles O45: the four reads answered and the mean written, or the first read that failed. -/
theorem reconstructionAveragesNeighbours : Obligations.ReconstructionAveragesNeighbours := by
  intro s x r hphase hcursor sn
  have hturn : takeTurn .sfc s = .next (s.reconPixel x r) := by
    rw [takeTurn, sfcTurn_of_active hphase, State.activeStep, hcursor]
    rfl
  refine ⟨_, (s.readFour s.draws x r).2, hturn, ?_⟩
  rcases readFour_cases s s.draws x r with ⟨a, b, c, d, m, hread, hfour⟩ | ⟨⟨m, hread⟩, hfails⟩
  · refine .inl ⟨a, b, c, d, hfour, ?_⟩
    rw [State.reconPixel, hread, ← avg4_eq_mean4]
    exact pixelWritten_advance (s := { s with draws := m }) hcursor x r _
  · refine .inr ⟨hfails, ?_⟩
    rw [State.reconPixel, hread]
    rfl

end Sys2Proof.Proofs.Reconstruction
end

section
/-! PROOFS. The display's turns (43_frame_controller.md R205, R206, R210), and which turns lower LINE. -/

namespace Sys2Proof.Proofs.Display

open Sys2Proof.Machine

theorem lineUp_eq (s : State) : s.lineUp = { s with line := BitVec.ofNat 16 (min (s.line.toNat + 1) 65535) } := by
  have hlt := s.line.isLt
  unfold State.lineUp
  split
  next h =>
    have hline : s.line + 1#16 = BitVec.ofNat 16 (min (s.line.toNat + 1) 65535) := by
      apply BitVec.eq_of_toNat_eq
      simp only [BitVec.toNat_add, BitVec.toNat_ofNat]
      omega
    rw [hline]
  next h =>
    have hline : BitVec.ofNat 16 (min (s.line.toNat + 1) 65535) = s.line := by
      apply BitVec.eq_of_toNat_eq
      rw [BitVec.toNat_ofNat]
      omega
    rw [hline]

theorem line_le_lineUp (s : State) : s.line.toNat ≤ s.lineUp.line.toNat := by
  have hlt := s.line.isLt
  rw [lineUp_eq, BitVec.toNat_ofNat]
  omega

/-- R205: LINE falls at a TICK only, or at reset. -/
theorem line_le_of_takeTurn {u : Turn} {s t : State} (h : takeTurn u s = .next t) (htick : u ≠ .tick)
    (hreset : u ≠ .reset) : s.line.toNat ≤ t.line.toNat := by
  cases u with
  | tick => exact absurd rfl htick
  | reset => exact absurd rfl hreset
  | lineUp =>
    cases h
    exact line_le_lineUp s
  | cmd =>
    rcases cmdTurn_cases h with hsame | rfl
    · rw [hsame.line]
    · exact le_rfl
  | sfc =>
    cases h
    rw [s.sfcTurn_same.line]
  | hostProgram =>
    cases h
    rw [s.hostProgramTurn_same.line]
  | hostWrite a w v =>
    cases h
    rw [(s.hostWrite_same a w v).line]
  | hostRead a w =>
    cases h
    obtain ⟨p, hread⟩ := s.hostRead_cases a w
    rw [hread]
  | hostPublish =>
    cases h
    exact le_rfl
  | scanOut =>
    cases h
    exact le_rfl

/-- Settles O40: TICK by the phase, LINE capped, and every other turn by what it leaves of LINE. -/
theorem tickByPhase : Obligations.TickByPhase := by
  refine fun s => ⟨?_, congrArg _ (lineUp_eq s), rfl, fun u t => line_le_of_takeTurn⟩
  cases hphase : s.sfc.phase <;> simp only [takeTurn, State.tick, hphase]

end Sys2Proof.Proofs.Display
end

section
/-! PROOFS. The bounds of a frame (43_frame_controller.md R212, R221, R222): when a configuration is legal,
and what COMPLETE leaves. -/

namespace Sys2Proof.Proofs.FrameBounds

open Sys2Proof.Machine Sys2Proof.Claims Sys2Proof.Proofs.Framebuffer

theorem bpp_eq (sn : Snap) : sn.bpp = if sn.pixfmt = .rgb565 then 2 else 1 := by
  unfold Snap.bpp
  cases sn.pixfmt <;> rfl

/-- Settles O41: the model's list of conditions as Booleans is the rule's. -/
theorem configOkAsTheRuleLists : Obligations.ConfigOkAsTheRuleLists := by
  intro sn w h bpp
  simp only [Snap.configOk, bpp_eq, Bool.not_eq_true', ← Bool.not_eq_true, Bool.or_eq_true, Bool.and_eq_true,
    decide_eq_true_eq, or_assoc, and_assoc]
  exact Iff.rfl

/-! ### COMPLETE (R221, R222) -/

theorem nextFrame_eq_advanced (c p : Half) : nextFrame c p = BitVec.ofNat 16 (advanced c p) := by
  unfold nextFrame advanced
  split
  · rfl
  · rw [BitVec.ofNat_add, BitVec.ofNat_toNat, BitVec.setWidth_eq]

theorem endFrame_eq_frameEnded (s : State) : s.endFrame = frameEnded s := by
  simp only [State.endFrame, frameEnded, nextFrame_eq_advanced]

/-- Settles O49: a finished cursor completes the frame. -/
theorem completeEndsTheFrame : Obligations.CompleteEndsTheFrame := by
  intro s hphase hfinish
  rw [takeTurn, sfcTurn_of_active hphase, State.activeStep, hfinish, ← endFrame_eq_frameEnded]
  rfl

end Sys2Proof.Proofs.FrameBounds
end

section
/-! PROOFS. The W1C write of STATUS (44_register_access.md R253). -/

namespace Sys2Proof.Proofs.StatusWrite

open Sys2Proof.Machine

/-- R253: clearing flags clears their bits, and no other bit, of the flags as a word. -/
theorem toWord_clear (f g : Flags) : (f.clear g).toWord = f.toWord &&& ~~~g.toWord := by
  apply BitVec.eq_of_getLsbD_eq
  intro i hi
  simp only [BitVec.getLsbD_and, BitVec.getLsbD_not, hi, decide_true, Bool.true_and, Flags.getLsbD_toWord _ i hi,
    Flags.clear]
  interval_cases i <;> simp

/-- The positions of the W1C mask (R27). -/
theorem mem_of_getLsbD_w1cMask {i : Nat} (hi : i < 32) (h : (0x00009C0E#32).getLsbD i = true) :
    i ∈ [1, 2, 3, 10, 11, 12, 15] := by
  revert i
  decide

/-- R27: no other field of STATUS reaches a W1C bit. -/
theorem getLsbD_statusWord_of_w1c (s : State) {i : Nat} (h : i ∈ [1, 2, 3, 10, 11, 12, 15]) :
    s.statusWord.getLsbD i = s.flags.toWord.getLsbD i := by
  have herr (k : Nat) (hk : 4 ≤ k) := testBit_of_lt s.err.code_lt hk
  have hphase (k : Nat) (hk : 2 ≤ k) := testBit_of_lt s.sfc.phase.code_lt hk
  simp only [List.mem_cons, List.not_mem_nil, or_false] at h
  rw [State.getLsbD_statusWord s i (by omega)]
  rcases h with rfl | rfl | rfl | rfl | rfl | rfl | rfl <;> simp [herr, hphase, testBit_of_lt s.cause.code_lt]

/-- Settles O31: a bit of the mask is its flag's, and any other bit is of a field that the write leaves. -/
theorem statusWriteClearsOnes : Obligations.StatusWriteClearsOnes := by
  refine fun s w => ⟨rfl, BitVec.eq_of_getLsbD_eq fun i hi => ?_⟩
  have hflags : (s.writeReg .status w).flags.toWord = s.flags.toWord &&& ~~~(w &&& 0x00009C0E#32) := by
    rw [← Flags.toWord_ofWord, ← toWord_clear]
    rfl
  rw [BitVec.getLsbD_and]
  cases hmask : (0x00009C0E#32).getLsbD i
  case true =>
    have hw1c := mem_of_getLsbD_w1cMask hi hmask
    rw [getLsbD_statusWord_of_w1c _ hw1c, getLsbD_statusWord_of_w1c s hw1c, hflags, BitVec.getLsbD_and]
  case false =>
    have hkeep : (~~~(w &&& 0x00009C0E#32)).getLsbD i = true := by
      simp only [BitVec.getLsbD_not, BitVec.getLsbD_and, hmask, hi, decide_true, Bool.and_false, Bool.not_false,
        Bool.and_true]
    rw [State.getLsbD_statusWord _ i hi, State.getLsbD_statusWord s i hi, hflags, BitVec.getLsbD_and, hkeep,
      Bool.and_true, Bool.and_true]
    rfl

end Sys2Proof.Proofs.StatusWrite
end

section
/-! PROOFS. The IRQ output (60_exceptions.md R274): a flag and its enable meet at one bit of the two words. -/

namespace Sys2Proof.Proofs.Irq

open Sys2Proof.Machine Sys2Proof.Proofs.StatusWrite

/-- R27, R35: the flags of STATUS and their enables in IRQ_EN stand at the same bits. -/
theorem meets_iff_common_bit (f e : Flags) :
    f.meets e = true ↔
      ∃ k ∈ [1, 2, 3, 10, 11, 12, 15], f.toWord.getLsbD k = true ∧ e.toWord.getLsbD k = true := by
  simp (disch := decide) only [List.exists_mem_cons_iff, List.not_mem_nil, false_and, exists_false, or_false,
    Flags.getLsbD_toWord]
  simp [Flags.meets, or_assoc]

/-- Settles O34: at the flags' bits STATUS reads as the flags alone, and IRQ_EN as the enables. -/
theorem irqIsAnEnabledFlag : Obligations.IrqIsAnEnabledFlag := by
  intro s
  rw [State.irq, meets_iff_common_bit]
  refine exists_congr fun k => and_congr_right fun hk => ?_
  rw [← getLsbD_statusWord_of_w1c s hk]
  rfl

end Sys2Proof.Proofs.Irq
end

section
/-! PROOFS. A running command against the host's register writes (70_reset_and_hazards.md R306): a write leaves
all that the command computes from, and the result registers that its completion keeps. -/

namespace Sys2Proof.Proofs.RegisterHazards

open Sys2Proof.Machine

/-- R252 to R254: no register write is a memory write of the host. -/
theorem writeReg_pending (s : State) (r : Reg) (v : Word) : (s.writeReg r v).pending = s.pending := by
  cases r
  case cmd =>
    rw [State.writeReg]
    rcases s.submit_cases v with ⟨-, h⟩ | ⟨-, -, h⟩ | ⟨-, -, -, h⟩ | ⟨-, -, i, -, h⟩ <;> rw [h] <;> rfl
  all_goals rfl

/-- R254: a command in the latch stays there, also when CMD is written. -/
theorem writeReg_latch_of_busy {s : State} {l : Latch} (hl : s.latch = some l) (r : Reg) (v : Word) :
    (s.writeReg r v).latch = s.latch := by
  rcases s.writeReg_latch r v with h | ⟨hidle, -⟩
  · exact h
  · rw [hl] at hidle
    cases hidle

/-- R58: what a running command computes from is the same after a register write. -/
theorem writeReg_sameInputs {s : State} {l : Latch} (hl : s.latch = some l) (r : Reg) (v : Word) :
    SameInputs s (s.writeReg r v) where
  build := (s.writeReg_same r v).build
  latch := writeReg_latch_of_busy hl r v
  mem := (s.writeReg_same r v).mem
  pending := writeReg_pending s r v
  draws := (s.writeReg_same r v).draws

/-- R256: ERR, the result registers and the draws after a completion come from its outcome and, where that
writes none of them, from the old result registers. -/
theorem finishCommand_results_congr {s t : State} (h : SameButHost s t) (n : Nat) (o : Bool)
    (r : Except ErrCode Results) :
    (t.finishCommand n o r).err = (s.finishCommand n o r).err
      ∧ (t.finishCommand n o r).res0 = (s.finishCommand n o r).res0
      ∧ (t.finishCommand n o r).res1 = (s.finishCommand n o r).res1
      ∧ (t.finishCommand n o r).accR = (s.finishCommand n o r).accR
      ∧ (t.finishCommand n o r).accG = (s.finishCommand n o r).accG
      ∧ (t.finishCommand n o r).accB = (s.finishCommand n o r).accB
      ∧ (t.finishCommand n o r).frameCos = (s.finishCommand n o r).frameCos
      ∧ (t.finishCommand n o r).frameSin = (s.finishCommand n o r).frameSin
      ∧ (t.finishCommand n o r).frameZoff = (s.finishCommand n o r).frameZoff
      ∧ (t.finishCommand n o r).draws = (s.finishCommand n o r).draws := by
  obtain ⟨h0, h1, hR, hG, hB⟩ := h.results
  obtain ⟨hcos, hsin, hzoff⟩ := h.constants
  cases r with
  | error e => exact ⟨rfl, h0, h1, hR, hG, hB, hcos, hsin, hzoff, rfl⟩
  | ok r => simp [State.finishCommand, h0, h1, hR, hG, hB, hcos, hsin, hzoff]

/-- Settles O8: the same inputs give the same outcome, and it completes on the same result registers. -/
theorem runningCommandIgnoresRegisterWrites : Obligations.RunningCommandIgnoresRegisterWrites := by
  intro s l r v hl
  obtain ⟨n, o, out, hs, ht⟩ := exec_outcome_congr l.cmd (writeReg_sameInputs hl r v) hl
  exact ⟨_, _, hs, ht, finishCommand_results_congr (s.writeReg_same r v) n o out⟩

end Sys2Proof.Proofs.RegisterHazards
end

section
/-! PROOFS. Reset (70_reset_and_hazards.md R300, R301): the registers of a build's reset state, which the
surroundings that the reset input keeps do not enter. -/

namespace Sys2Proof.Proofs.Reset

open Sys2Proof.Machine Sys2Proof.Claims

/-- R22, R301: the reset column of the register map, for each Q at the canonical place. -/
theorem readReg_resetOf_canonical (q : QFormat) (r : Reg) :
    (State.resetOf { Build.canonical with q := q }).readReg r = resetValue q r := by
  cases q <;> cases r <;> decide

/-- R25, R301: of a build the registers show Q only, so the canonical place stands for every other. -/
theorem readReg_resetOf (b : Build) (r : Reg) : (State.resetOf b).readReg r = resetValue b.q r := by
  have hq : (State.resetOf b).readReg r = (State.resetOf { Build.canonical with q := b.q }).readReg r := by
    cases r <;> rfl
  rw [hq, readReg_resetOf_canonical]

/-- R300: no register reads from the surroundings, so after the reset input each reads as at power-on. -/
theorem readReg_resetInput (s : State) (r : Reg) :
    s.resetInput.readReg r = (State.resetOf s.build).readReg r := by
  cases r <;> rfl

/-- Settles O35: the registers by the two lemmas above; the rest of the reset state is written out in it. -/
theorem resetGivesResetValues : Obligations.ResetGivesResetValues := by
  intro s
  have hpower := readReg_resetOf s.build
  exact ⟨rfl, fun r => (readReg_resetInput s r).trans (hpower r), rfl, rfl, rfl, rfl, rfl, rfl, hpower,
    rfl, rfl, rfl, rfl⟩

end Sys2Proof.Proofs.Reset
end

section
/-! PROOFS. Turns (44_register_access.md R256, R257): one lemma says what any turn can do, and the whole-machine
rules are read off its cases. -/

namespace Sys2Proof.Proofs.Turns

open Sys2Proof.Machine

/-- Everything a turn can be: a finished command, a host write or a turn of its program, a turn of the frame
controller, a TICK, a reset, or one that touches only what is outside the block. -/
inductive TurnCase (s : State) : Turn → State → Prop
  | cmd {t : State} (same : SameButResults s t) : TurnCase s .cmd t
  | host {u : Turn} {t : State} (access : u = .hostProgram ∨ ∃ a w v, u = .hostWrite a w v)
      (same : SameButHost s t) (moves : HostMoves s t) : TurnCase s u t
  | sfc : TurnCase s .sfc s.sfcTurn
  | tick : TurnCase s .tick s.tick
  | reset : TurnCase s .reset s.resetInput
  | outside {u : Turn} (line : Half) (cells pending : List Host.Cell) (port : PortResponse) :
      TurnCase s u { s with line := line, mem := Memory.setAll s.mem cells, pending := pending, port := port }

theorem takeTurn_cases {u : Turn} {s t : State} (h : takeTurn u s = .next t) : TurnCase s u t := by
  cases u with
  | cmd =>
    rcases cmdTurn_cases h with hsame | rfl
    · exact .cmd hsame
    · exact .outside t.line [] t.pending t.port
  | hostProgram =>
    cases h
    exact .host (.inl rfl) s.hostProgramTurn_same s.hostProgramTurn_moves
  | hostWrite a w v =>
    cases h
    exact .host (.inr ⟨a, w, v, rfl⟩) (s.hostWrite_same a w v) (s.hostWrite_moves a w v)
  | hostRead a w =>
    cases h
    obtain ⟨p, hread⟩ := s.hostRead_cases a w
    rw [hread]
    exact .outside s.line [] s.pending p
  | hostPublish =>
    cases h
    exact .outside s.line _ _ s.port
  | sfc =>
    cases h
    exact .sfc
  | lineUp =>
    cases h
    obtain ⟨n, hline⟩ := s.lineUp_cases
    rw [hline]
    exact .outside n [] s.pending s.port
  | tick =>
    cases h
    exact .tick
  | scanOut =>
    cases h
    exact .outside s.line [] s.pending s.port
  | reset =>
    cases h
    exact .reset

theorem takeTurn_answers (u : Turn) (s : State) : ∃ t, takeTurn u s = .next t := by
  cases u with
  | cmd =>
    simp only [takeTurn, cmdTurn]
    cases s.latch with
    | none => exact ⟨s, rfl⟩
    | some l =>
      obtain ⟨t, hexec, -⟩ := exec_same l.cmd s
      exact ⟨t, hexec⟩
  | _ => exact ⟨_, rfl⟩

/-- Settles O52: a step is a turn, and every turn answers. -/
theorem everyStepGoesOn : Obligations.EveryStepGoesOn := fun s => takeTurn_answers (nextTurn s).1 (nextTurn s).2

/-- Settles O53: the turns listed are none of the host's accesses, and the others leave the operands. -/
theorem onlyTheHostWritesOperands : Obligations.OnlyTheHostWritesOperands := by
  intro u s t h hu
  cases takeTurn_cases h with
  | cmd same => exact same.operands
  | host access => rcases access with rfl | ⟨a, w, v, rfl⟩ <;> simp at hu
  | sfc => exact s.sfcTurn_same.operands
  | tick =>
    obtain ⟨b, p, l, htick⟩ := s.tick_cases
    rw [htick]
    exact ⟨rfl, rfl, rfl, rfl⟩
  | reset => simp at hu
  | outside => exact ⟨rfl, rfl, rfl, rfl⟩

/-- Settles O54: every turn but a command's and reset leaves the results. -/
theorem onlyCommandsWriteResults : Obligations.OnlyCommandsWriteResults := by
  intro u s t h hcmd hreset
  cases takeTurn_cases h with
  | cmd => exact absurd rfl hcmd
  | host _ same => exact same.results
  | sfc => exact s.sfcTurn_same.results
  | tick =>
    obtain ⟨b, p, l, htick⟩ := s.tick_cases
    rw [htick]
    exact ⟨rfl, rfl, rfl, rfl, rfl⟩
  | reset => exact absurd rfl hreset
  | outside => exact ⟨rfl, rfl, rfl, rfl, rfl⟩

/-! ### The build (R7, R25) -/

theorem takeTurn_build {u : Turn} {s t : State} (h : takeTurn u s = .next t) : t.build = s.build := by
  cases takeTurn_cases h with
  | cmd same => exact same.build
  | host _ same => exact same.build
  | sfc => exact s.sfcTurn_same.build
  | tick =>
    obtain ⟨b, p, l, htick⟩ := s.tick_cases
    rw [htick]
  | reset => rfl
  | outside => rfl

/-- Settles O56: a step is a turn on the same build, every turn keeps it, and ID and PARAM show nothing else. -/
theorem buildNeverChanges : Obligations.BuildNeverChanges := by
  intro s t hstep
  obtain ⟨u, q, n, hturn⟩ := step_is_turn hstep
  have hbuild : t.build = s.build := by rw [takeTurn_build hturn]
  exact ⟨hbuild, rfl, by rw [State.readReg, hbuild, State.readReg]⟩

end Sys2Proof.Proofs.Turns
end

section
/-! PROOFS. Frame counters (10_state.md R56): the frame controller counts a frame where it ends it, on time or late,
and no other turn counts. -/

namespace Sys2Proof.Proofs.FrameCounters

open Sys2Proof.Machine Sys2Proof.Proofs.Turns

/-- R211: the PRE step ends no frame. -/
theorem preStep_counts (s : State) : s.preStep.frameCount = s.frameCount ∧ s.preStep.lateCount = s.lateCount := by
  simp only [State.preStep]
  split
  · split
    · exact ⟨rfl, rfl⟩
    · exact ⟨rfl, rfl⟩
  · exact ⟨rfl, rfl⟩

/-- R220, R221: a turn of the active phase counts no frame, one on time, or one late. -/
theorem activeStep_counts (s : State) :
    (s.activeStep.frameCount = s.frameCount ∧ s.activeStep.lateCount = s.lateCount)
      ∨ (s.sfc.cursor.sub = .finish ∧ s.activeStep.frameCount = s.frameCount + 1#32
        ∧ s.activeStep.flags.done = true ∧ s.activeStep.lateCount = s.lateCount)
      ∨ (s.activeStep.lateCount = s.lateCount + 1#32 ∧ s.activeStep.flags.late = true
        ∧ s.activeStep.frameCount = s.frameCount) := by
  rcases s.activeStep_cases with ⟨hgoes, -⟩ | ⟨hfinish, hcomplete⟩ | hlate | hfault
  · obtain ⟨hframes, hlates, -⟩ := hgoes.counts
    exact .inl ⟨hframes, hlates⟩
  · rw [hcomplete]
    exact .inr (.inl ⟨hfinish, rfl, rfl, rfl⟩)
  · obtain ⟨hframes, hlates⟩ := hlate.counts
    exact .inr (.inr ⟨hlates, by rw [hlate.flags], hframes⟩)
  · obtain ⟨hframes, hlates, -⟩ := hfault.counts
    exact .inl ⟨hframes, hlates⟩

/-- R224: outside the active phase a turn of the frame controller counts nothing. -/
theorem sfcTurn_counts_of_not_active {s : State} (h : s.sfc.phase ≠ .active) :
    s.sfcTurn.frameCount = s.frameCount ∧ s.sfcTurn.lateCount = s.lateCount := by
  unfold State.sfcTurn
  cases hphase : s.sfc.phase with
  | off =>
    dsimp only
    split <;> exact ⟨rfl, rfl⟩
  | wait =>
    dsimp only
    split <;> exact ⟨rfl, rfl⟩
  | pre =>
    dsimp only
    split
    · exact ⟨rfl, rfl⟩
    · exact preStep_counts s
  | active => exact absurd hphase h

/-- Settles O55: only the frame controller's turns count, in the active phase, as `activeStep_counts` says. -/
theorem frameCountersCountEndsOfFrames : Obligations.FrameCountersCountEndsOfFrames := by
  intro u s t h hreset
  cases takeTurn_cases h with
  | sfc =>
    by_cases hactive : s.sfc.phase = .active
    · rw [Framebuffer.sfcTurn_of_active hactive]
      rcases activeStep_counts s with ⟨hf, hl⟩ | ⟨hfinish, hf, hdone, hl⟩ | ⟨hl, hlate, hf⟩
      · exact ⟨.inl hf, .inl hl⟩
      · exact ⟨.inr ⟨rfl, hactive, hfinish, hf, hdone⟩, .inl hl⟩
      · exact ⟨.inl hf, .inr ⟨rfl, hactive, hl, hlate⟩⟩
    · obtain ⟨hf, hl⟩ := sfcTurn_counts_of_not_active hactive
      exact ⟨.inl hf, .inl hl⟩
  | cmd same => exact ⟨.inl same.counts.1, .inl same.counts.2⟩
  | host _ same => exact ⟨.inl same.counts.1, .inl same.counts.2⟩
  | tick =>
    obtain ⟨b, p, l, htick⟩ := s.tick_cases
    rw [htick]
    exact ⟨.inl rfl, .inl rfl⟩
  | reset => exact absurd rfl hreset
  | outside => exact ⟨.inl rfl, .inl rfl⟩

end Sys2Proof.Proofs.FrameCounters
end

section
/-! PROOFS. Phase, EN, late_latch and BUSY (43_frame_controller.md R206 to R210; 70_reset_and_hazards.md R308):
the three rules say that the frame controller is idle in step with EN, in PRE, or in a frame with no command
BUSY, and every turn keeps that. -/

namespace Sys2Proof.Proofs.Phases

open Sys2Proof.Machine Sys2Proof.Proofs.Turns

/-- R208, R209: between frames the phase follows EN and late_latch is clear. -/
def Idle (s : State) : Prop :=
  s.sfc.phase = (if s.ctrl.en then .wait else .off) ∧ s.sfc.lateLatch = false

/-- Where the three rules allow the frame controller to be. -/
def PhaseRules (s : State) : Prop :=
  Idle s ∨ s.sfc.phase = .pre ∨ (s.sfc.phase = .active ∧ s.latch = none)

theorem phaseRules_iff (s : State) :
    PhaseRules s ↔ s.enableOk = true ∧ s.exclusiveOk = true ∧ s.lateLatchOk = true := by
  unfold PhaseRules Idle State.enableOk State.exclusiveOk State.lateLatchOk State.busy
  cases s.sfc.phase <;> cases s.ctrl.en <;> simp

/-- The rules look at CTRL, the frame controller and the latch only. -/
theorem PhaseRules.congr {s t : State} (h : PhaseRules s) (hctrl : t.ctrl = s.ctrl) (hsfc : t.sfc = s.sfc)
    (hlatch : t.latch = s.latch) : PhaseRules t := by
  unfold PhaseRules Idle
  rw [hctrl, hsfc, hlatch]
  exact h

/-! ### The agents' turns -/

/-- R258: the phase after a write of EN, from an idle phase. -/
theorem withEnable_of_idle {p : Phase} (h : p = .off ∨ p = .wait) (en : Bool) :
    p.withEnable en = if en then .wait else .off := by
  rcases h with rfl | rfl <;> rfl

theorem Idle.phase_off_or_wait {s : State} (h : Idle s) : s.sfc.phase = .off ∨ s.sfc.phase = .wait := by
  rw [h.1]
  cases s.ctrl.en
  · exact .inl rfl
  · exact .inr rfl

/-- A host access moves the phase between OFF and WAIT with EN, and lets a command in only there. -/
theorem PhaseRules.hostMoves {s t : State} (h : PhaseRules s) (hmoves : HostMoves s t) : PhaseRules t := by
  obtain ⟨hphase, hlatch⟩ := hmoves
  rcases h with hidle | hpre | ⟨hactive, hnone⟩
  · rcases hphase with hsfc | ⟨hctrl, hsfc⟩
    · refine .inl ⟨?_, ?_⟩
      · rw [hsfc, ← withEnable_of_idle hidle.phase_off_or_wait]
      · rw [hsfc]
        exact hidle.2
    · exact .inl (by rw [Idle, hctrl, hsfc]; exact hidle)
  · refine .inr (.inl ?_)
    rcases hphase with hsfc | ⟨-, hsfc⟩ <;> rw [hsfc]
    · rw [hpre]
      rfl
    · exact hpre
  · refine .inr (.inr ⟨?_, ?_⟩)
    · rcases hphase with hsfc | ⟨-, hsfc⟩ <;> rw [hsfc]
      · rw [hactive]
        rfl
      · exact hactive
    · rcases hlatch with hsame | ⟨-, hoff | hwait, -⟩
      · rw [hsame, hnone]
      · rw [hactive] at hoff
        cases hoff
      · rw [hactive] at hwait
        cases hwait

/-- R256: a finished command leaves CTRL and the frame controller, and the latch empty. -/
theorem PhaseRules.finished {s t : State} (h : PhaseRules s) (hsame : SameButResults s t) : PhaseRules t := by
  unfold PhaseRules Idle
  rw [hsame.ctrl, hsame.sfc, hsame.latch]
  exact h.imp_right (Or.imp_right fun hactive => ⟨hactive.1, rfl⟩)

/-- R276: SfcFault clears EN and goes to OFF. -/
theorem idle_raiseSfcFault (s : State) (c : SfcCause) : Idle (s.raiseSfcFault c) := ⟨rfl, rfl⟩

/-- R210: the PRE step stops on a fault, or starts the active phase. -/
theorem preStep_cases (s : State) :
    (∃ u c, s.preStep = State.raiseSfcFault u c) ∨ s.preStep.sfc.phase = .active := by
  simp only [State.preStep]
  split
  · split
    · exact .inl ⟨_, _, rfl⟩
    · exact .inr rfl
  · exact .inl ⟨_, _, rfl⟩

theorem phaseRules_preStep {s : State} (hnone : s.latch = none) : PhaseRules s.preStep := by
  rcases preStep_cases s with ⟨u, c, h⟩ | h
  · rw [h]
    exact .inl (idle_raiseSfcFault u c)
  · exact .inr (.inr ⟨h, s.preStep_same.latch.trans hnone⟩)

/-- R224: a turn of the active phase stays in it, or ends the frame and is idle. -/
theorem phaseRules_activeStep {s : State} (hactive : s.sfc.phase = .active) (hnone : s.latch = none) :
    PhaseRules s.activeStep := by
  rcases s.activeStep_cases with ⟨hgoes, -⟩ | ⟨-, hcomplete⟩ | hlate | hfault
  · refine .inr (.inr ⟨?_, s.activeStep_same.latch.trans hnone⟩)
    rw [hgoes.sfc]
    exact hactive
  · rw [hcomplete]
    exact .inl ⟨rfl, rfl⟩
  · exact .inl (by rw [Idle, hlate.sfc, hlate.ctrl]; exact ⟨rfl, rfl⟩)
  · exact .inl (by rw [Idle, hfault.sfc, hfault.ctrl]; exact ⟨rfl, rfl⟩)

/-- R208, R209: between frames the frame controller has nothing to do. -/
theorem sfcTurn_of_idle {s : State} (h : Idle s) : s.sfcTurn = s := by
  obtain ⟨hphase, -⟩ := h
  unfold State.sfcTurn
  cases hen : s.ctrl.en <;> simp [hphase, hen]

theorem PhaseRules.sfcTurn {s : State} (h : PhaseRules s) : PhaseRules s.sfcTurn := by
  rcases h with hidle | hpre | ⟨hactive, hnone⟩
  · rw [sfcTurn_of_idle hidle]
    exact .inl hidle
  · simp only [State.sfcTurn, hpre]
    split
    · exact .inr (.inl hpre)
    next hbusy => exact phaseRules_preStep (by simpa [State.busy] using hbusy)
  · rw [Framebuffer.sfcTurn_of_active hactive]
    exact phaseRules_activeStep hactive hnone

theorem PhaseRules.tick {s : State} (h : PhaseRules s) : PhaseRules s.tick := by
  unfold State.tick
  cases hphase : s.sfc.phase with
  | off => exact h.congr rfl rfl rfl
  | wait => exact .inr (.inl rfl)
  | pre => exact .inr (.inl hphase)
  | active =>
    rcases h with hidle | hpre | ⟨-, hnone⟩
    · rcases hidle.phase_off_or_wait with hp | hp <;> rw [hphase] at hp <;> cases hp
    · rw [hphase] at hpre
      cases hpre
    · exact .inr (.inr ⟨hphase, hnone⟩)

theorem PhaseRules.takeTurn {u : Turn} {s t : State} (h : PhaseRules s) (hturn : Machine.takeTurn u s = .next t) :
    PhaseRules t := by
  cases takeTurn_cases hturn with
  | cmd same => exact h.finished same
  | host _ _ moves => exact h.hostMoves moves
  | sfc => exact h.sfcTurn
  | tick => exact h.tick
  | reset => exact .inl ⟨rfl, rfl⟩
  | outside => exact h.congr rfl rfl rfl

/-- Settles O58: a step is a turn on the same phase, EN, late_latch and latch, and every turn keeps the rules. -/
theorem stepKeepsPhaseRules : Obligations.StepKeepsPhaseRules := by
  intro s t h hstep
  obtain ⟨u, q, n, hturn⟩ := step_is_turn hstep
  have hrules : PhaseRules { s with sched := q, draws := n } := ((phaseRules_iff s).2 h).congr rfl rfl rfl
  exact (phaseRules_iff t).1 (hrules.takeTurn hturn)

end Sys2Proof.Proofs.Phases
end

section
/-! PROOFS. The frame in the active phase (43_frame_controller.md R211 to R214, R220): the snapshot is legal and
the cursor on a pixel of its sub-phase, from the PRE step on and after every turn. -/

namespace Sys2Proof.Proofs.CursorInFrame

open Sys2Proof.Machine Sys2Proof.Proofs.Turns

/-- The invariant, of the frame controller alone. -/
def FrameOk (f : Sfc) : Prop :=
  f.phase = .active → f.snap.configOk = true ∧ f.snap.cursorOk f.cursor = true

theorem frameOk_iff (s : State) : s.frameOk = true ↔ FrameOk s.sfc := by
  unfold State.frameOk FrameOk
  cases s.sfc.phase <;> simp

/-- Outside the active phase nothing is asked. -/
theorem frameOk_of_not_active {f : Sfc} (h : f.phase ≠ .active) : FrameOk f := fun hactive => absurd hactive h

/-- R258: a write of EN starts no frame. -/
theorem withEnable_eq_active {p : Phase} {en : Bool} (h : p.withEnable en = .active) : p = .active := by
  cases p with
  | off => cases en <;> cases h
  | wait => cases en <;> cases h
  | pre => cases h
  | active => rfl

theorem FrameOk.hostMoves {s t : State} (h : FrameOk s.sfc) (hmoves : HostMoves s t) : FrameOk t.sfc := by
  rcases hmoves.phase with hsfc | ⟨-, hsfc⟩ <;> rw [hsfc]
  · exact fun hactive => h (withEnable_eq_active hactive)
  · exact h

theorem FrameOk.tick {s : State} (h : FrameOk s.sfc) : FrameOk s.tick.sfc := by
  unfold State.tick
  cases hphase : s.sfc.phase with
  | off => exact h
  | wait => exact frameOk_of_not_active nofun
  | pre => exact frameOk_of_not_active fun hactive => nomatch hphase.symm.trans hactive
  | active => exact fun _ => h hphase

/-! ### The frame controller's own turns -/

/-- R211: the active phase starts on a legal snapshot with a legal cursor. -/
theorem frameOk_preStep (s : State) : FrameOk s.preStep.sfc := by
  simp only [State.preStep]
  split
  next hconfig =>
    split
    · exact frameOk_of_not_active nofun
    · exact fun _ => ⟨hconfig, Snap.firstCursor_ok _ hconfig⟩
  · exact frameOk_of_not_active nofun

theorem phase_ne_active_of_ended {en : Bool} : (if en then Phase.wait else .off) ≠ .active := by
  cases en <;> nofun

/-- R220: a column FAULT paints from a legal cursor is one its sub-phase works on. -/
theorem cursorOk_paint {sn : Snap} {c : Cursor} {x0 z : Nat} (hc : sn.cursorOk c = true)
    (hsub : c.sub = .paint x0 ∨ (x0 = c.x ∧ (c.sub = .render ∨ c.sub = .mirror))) (hz : z < sn.w)
    (hunwritten : sn.unwritten x0 c.y z = true) : sn.cursorOk ⟨.paint x0, c.y, z⟩ = true := by
  have hrow : c.y < sn.h ∧ x0 < sn.w := by
    rcases hsub with hpaint | ⟨rfl, hrender | hmirror⟩
    · have hsubOk := sn.subOk_of_cursorOk hc
      rwa [hpaint] at hsubOk
    · simp only [Snap.cursorOk, hrender, Bool.and_eq_true, decide_eq_true_eq] at hc
      exact hc.1
    · simp only [Snap.cursorOk, hmirror, Bool.and_eq_true, decide_eq_true_eq] at hc
      exact hc.1
  exact sn.cursorOk_of_works (sub := .paint x0) hrow hz hunwritten

/-- R214, R220, R224: a turn of the active phase keeps the snapshot and moves to a legal cursor, or ends. -/
theorem FrameOk.activeStep {s : State} (h : FrameOk s.sfc) (hactive : s.sfc.phase = .active) :
    FrameOk s.activeStep.sfc := by
  obtain ⟨hconfig, hcursor⟩ := h hactive
  rcases s.activeStep_cases with ⟨hgoes, hmove⟩ | ⟨-, hcomplete⟩ | hlate | hfault
  · rw [hgoes.sfc]
    refine fun _ => ⟨hconfig, ?_⟩
    rcases hmove with hstay | hnext | ⟨x0, z, hsub, hz, hunwritten, hpaint⟩
    · rw [hstay]
      exact hcursor
    · rw [hnext]
      exact Snap.nextCursor_ok _ hconfig hcursor
    · rw [hpaint]
      exact cursorOk_paint hcursor hsub hz hunwritten
  · rw [hcomplete]
    exact frameOk_of_not_active phase_ne_active_of_ended
  · rw [hlate.sfc]
    exact frameOk_of_not_active phase_ne_active_of_ended
  · rw [hfault.sfc]
    exact frameOk_of_not_active nofun

theorem FrameOk.sfcTurn {s : State} (h : FrameOk s.sfc) : FrameOk s.sfcTurn.sfc := by
  unfold State.sfcTurn
  cases hphase : s.sfc.phase with
  | off =>
    dsimp only
    split
    · exact frameOk_of_not_active nofun
    · exact h
  | wait =>
    dsimp only
    split
    · exact h
    · exact frameOk_of_not_active nofun
  | pre =>
    dsimp only
    split
    · exact h
    · exact frameOk_preStep s
  | active => exact h.activeStep hphase

theorem FrameOk.takeTurn {u : Turn} {s t : State} (h : FrameOk s.sfc) (hturn : Machine.takeTurn u s = .next t) :
    FrameOk t.sfc := by
  cases takeTurn_cases hturn with
  | cmd same =>
    rw [same.sfc]
    exact h
  | host _ _ moves => exact h.hostMoves moves
  | sfc => exact h.sfcTurn
  | tick => exact h.tick
  | reset => exact frameOk_of_not_active nofun
  | outside => exact h

/-- Settles O59: a step is a turn on the same frame controller, and every turn keeps the invariant. -/
theorem stepKeepsCursorInTheFrame : Obligations.StepKeepsCursorInTheFrame := by
  intro s t h hstep
  obtain ⟨u, q, n, hturn⟩ := step_is_turn hstep
  have hframe : FrameOk ({ s with sched := q, draws := n } : State).sfc := (frameOk_iff s).1 h
  exact (frameOk_iff t).2 (hframe.takeTurn hturn)

end Sys2Proof.Proofs.CursorInFrame
end

section
/-! PROOFS. Platform memory in canonical form (20_memory.md R70): the frame controller and publication write it,
byte by byte, and no other turn does. -/

namespace Sys2Proof.Proofs.CanonicalMemory

open Sys2Proof.Machine Sys2Proof.Proofs.Turns

/-- A pixel write keeps the canonical form, stored or torn, when what goes on after it does. -/
theorem memoryOk_writePixelThen {s : State} (h : s.memoryOk = true) (x y : Nat) (v : Word) {k : State → State}
    (hk : ∀ t : State, t.memoryOk = true → (k t).memoryOk = true) :
    (s.writePixelThen x y v k).memoryOk = true := by
  rcases s.writePixelThen_cases x y v k with ⟨-, hwrite⟩ | ⟨-, hwrite⟩ <;> rw [hwrite]
  · exact hk _ (Memory.wf_store _ _ _ h)
  · exact Memory.wf_storeSome _ _ _ _ h

theorem memoryOk_renderPixel {s : State} (h : s.memoryOk = true) (x y : Nat) :
    (s.renderPixel x y).memoryOk = true := by
  simp only [State.renderPixel]
  split
  · exact h
  · refine memoryOk_writePixelThen ?_ _ _ _ fun t ht => ?_
    · exact h
    · exact ht

theorem memoryOk_mirrorPixel {s : State} (h : s.memoryOk = true) (x y : Nat) :
    (s.mirrorPixel x y).memoryOk = true := by
  simp only [State.mirrorPixel]
  split
  · exact h
  · refine memoryOk_writePixelThen ?_ _ _ _ fun t ht => ?_
    · exact h
    · exact ht

theorem memoryOk_reconPixel {s : State} (h : s.memoryOk = true) (x r : Nat) :
    (s.reconPixel x r).memoryOk = true := by
  simp only [State.reconPixel]
  split
  · exact h
  · refine memoryOk_writePixelThen ?_ _ _ _ fun t ht => ?_
    · exact h
    · exact ht

theorem memoryOk_paintPixel {s : State} (h : s.memoryOk = true) (x0 y x : Nat) :
    (s.paintPixel x0 y x).memoryOk = true := by
  refine memoryOk_writePixelThen h _ _ _ fun t ht => ?_
  simp only [State.afterPaint]
  split
  · exact ht
  · exact ht

theorem memoryOk_guarded {s : State} (h : s.memoryOk = true) (x y : Nat) {op : State → State}
    (hop : ∀ t : State, t.memoryOk = true → (op t).memoryOk = true) : (s.guarded x y op).memoryOk = true := by
  rcases s.guarded_cases x y op with ⟨-, hlate⟩ | ⟨-, -, hok⟩ | ⟨-, -, hhold⟩
  · rw [hlate]
    rcases State.startFault_cases { s with curPos := posWord y x } x y with ⟨z, -, -, -, hpaint⟩ | ⟨-, hend⟩
    · rw [hpaint]
      refine memoryOk_paintPixel ?_ _ _ _
      exact h
    · rw [hend]
      exact h
  · rw [hok]
    exact hop _ h
  · rw [hhold]
    exact h

theorem memoryOk_activeStep {s : State} (h : s.memoryOk = true) : s.activeStep.memoryOk = true := by
  simp only [State.activeStep]
  split
  · exact memoryOk_guarded h _ _ fun _ ht => memoryOk_renderPixel ht _ _
  · exact memoryOk_guarded h _ _ fun _ ht => memoryOk_mirrorPixel ht _ _
  · exact memoryOk_reconPixel h _ _
  · exact memoryOk_paintPixel h _ _ _
  · exact h

/-- R211: the PRE step writes no memory. -/
theorem preStep_mem (s : State) : s.preStep.mem = s.mem := by
  simp only [State.preStep]
  split
  · split
    · rfl
    · rfl
  · rfl

theorem memoryOk_sfcTurn {s : State} (h : s.memoryOk = true) : s.sfcTurn.memoryOk = true := by
  unfold State.sfcTurn
  cases hphase : s.sfc.phase with
  | off =>
    dsimp only
    split <;> exact h
  | wait =>
    dsimp only
    split <;> exact h
  | pre =>
    dsimp only
    split
    · exact h
    · rw [State.memoryOk, preStep_mem]
      exact h
  | active => exact memoryOk_activeStep h

theorem memoryOk_of_mem_eq {s t : State} (hmem : t.mem = s.mem) (h : s.memoryOk = true) : t.memoryOk = true := by
  rw [State.memoryOk, hmem]
  exact h

theorem memoryOk_takeTurn {u : Turn} {s t : State} (h : s.memoryOk = true) (hturn : takeTurn u s = .next t) :
    t.memoryOk = true := by
  cases takeTurn_cases hturn with
  | cmd same => exact memoryOk_of_mem_eq same.mem h
  | host _ same => exact memoryOk_of_mem_eq same.mem h
  | sfc => exact memoryOk_sfcTurn h
  | tick =>
    obtain ⟨b, p, l, htick⟩ := s.tick_cases
    rw [htick]
    exact h
  | reset => exact h
  | outside => exact Memory.wf_setAll _ h

/-- Settles O57: a step is a turn on the same memory, and every turn keeps the canonical form. -/
theorem stepKeepsMemoryCanonical : Obligations.StepKeepsMemoryCanonical := by
  intro s t h hstep
  obtain ⟨u, q, n, hturn⟩ := step_is_turn hstep
  exact memoryOk_takeTurn (s := { s with sched := q, draws := n }) h hturn

end Sys2Proof.Proofs.CanonicalMemory
end

section
/-! PROOFS. The start of the invariants (70_reset_and_hazards.md R300, R301). -/

namespace Sys2Proof.Proofs.ResetInvariants

/-- Settles O60: the reset state of a build differs from another's in the build only, which no invariant sees. -/
theorem resetMeetsEveryInvariant : Obligations.ResetMeetsEveryInvariant :=
  fun _ => ⟨rfl, rfl, rfl, rfl, rfl⟩

end Sys2Proof.Proofs.ResetInvariants
end

section
/-! PROOFS. Command words (30_encoding.md R100, R103, R104): the map written out, and the encoder's words as one
word, as four bytes and as a word of the opcode table. -/

namespace Sys2Proof.Proofs.CommandWords

/-- Settles O1: the decoder is evaluated on each of the fourteen words. -/
theorem opcodeMapWordsDecode : Obligations.OpcodeMapWordsDecode := by
  unfold Obligations.OpcodeMapWordsDecode
  decide

theorem decode_encode (i : Instr) : decode (encode i) = .ok i := (Encoding.decode_eq_ok_iff_eq_encode _ _).2 rfl

/-- The four bytes of a word, put together again. -/
theorem append_bytes (w : Word) :
    w.extractLsb' 24 8 ++ w.extractLsb' 16 8 ++ w.extractLsb' 8 8 ++ w.extractLsb' 0 8 = w := by
  have h16 : w.extractLsb' 24 8 ++ w.extractLsb' 16 8 = w.extractLsb' 16 16 :=
    BitVec.extractLsb'_append_extractLsb'_eq_extractLsb' rfl
  have h8 : w.extractLsb' 16 16 ++ w.extractLsb' 8 8 = w.extractLsb' 8 24 :=
    BitVec.extractLsb'_append_extractLsb'_eq_extractLsb' rfl
  rw [h16, h8, Encoding.rsvd_append_opcodeField]

/-- Log 28: a word's bytes decode as the word does. -/
theorem decodeBytes_wordBytes {w : Word} {i : Instr} (h : decode w = .ok i) (rest : List Byte) :
    decodeBytes (wordBytes w ++ rest) = .ok (i, rest) := by
  simp only [wordBytes, List.cons_append, List.nil_append, decodeBytes, append_bytes, h]

theorem decodeTableWord_toNat {w : Word} {i : Instr} (h : decode w = .ok i) :
    decodeTableWord 32 w.toNat = some i := by
  have hbytes := decodeBytes_wordBytes h []
  rw [List.append_nil] at hbytes
  rw [decodeTableWord, if_pos ⟨w.isLt, w.isLt⟩, BitVec.ofNat_toNat, BitVec.setWidth_eq, hbytes]

/-- Settles O2: the encoding decodes as a word, and so as bytes and in the table's numbering. -/
theorem decodeEncodeAgree : Obligations.DecodeEncodeAgree :=
  fun i _ => ⟨decode_encode i, decodeBytes_wordBytes (decode_encode i), decodeTableWord_toNat (decode_encode i)⟩

end Sys2Proof.Proofs.CommandWords
end

section
/-! PROOFS. The command engine (44_register_access.md R254 to R256): the turn that runs a command, the four outcomes
of a CMD write, and what every command leaves unchanged. -/

namespace Sys2Proof.Proofs.CommandEngine

open Sys2Proof.Machine Sys2Proof.Claims Sys2Proof.Proofs.Completion

/-! ### The turn of a command -/

/-- R256: a CMD turn with a command in the latch runs it. -/
theorem step_of_cmd {s : State} {l : Latch} {rest : List Turn} (hsched : s.sched = .cmd :: rest)
    (hlatch : s.latch = some l) : step s = exec l.cmd { s with sched := rest } := by
  simp only [step, nextTurn, hsched, takeTurn, cmdTurn, hlatch]

/-- Settles O4: a latched command with its turn next, and the same after `withFetchWord`. -/
theorem stepRunsTheLatchedCommand : Obligations.StepRunsTheLatchedCommand := by
  refine ⟨fun s l rest => step_of_cmd, fun s w i hword => ?_⟩
  have hplaced : s.withFetchWord 32 w = { s.accept i with sched := .cmd :: s.sched } := by
    rw [State.withFetchWord, placeCommand, hword]
  rw [hplaced]
  exact step_of_cmd (l := Latch.capture i s) rfl rfl

/-! ### A CMD write (R254) -/

theorem busy_eq_false_iff (s : State) : s.busy = false ↔ s.latch = none := by
  rw [State.busy, Option.isSome_eq_false_iff, Option.isNone_iff_eq_none]

theorem submit_of_busy {s : State} (h : s.latch ≠ none) (w : Word) :
    s.submit w = { s with flags := { s.flags with cmdovr := true } } := by
  rw [State.submit, if_pos ((Bool.eq_false_or_eq_true _).resolve_right (mt (busy_eq_false_iff s).1 h))]

theorem submit_of_running_frame {s : State} (hidle : s.latch = none)
    (hphase : s.sfc.phase = .pre ∨ s.sfc.phase = .active) (w : Word) : s.submit w = s.reject .conflict := by
  rw [State.submit, (busy_eq_false_iff s).2 hidle]
  rcases hphase with h | h <;> simp only [h, Bool.false_eq_true, if_false]

theorem submit_of_illegal {s : State} (hidle : s.latch = none) (hphase : s.sfc.phase = .off ∨ s.sfc.phase = .wait)
    {w : Word} {e : DecodeError} (hdecode : decode w = .error e) : s.submit w = s.reject .illegal := by
  rw [State.submit, (busy_eq_false_iff s).2 hidle]
  rcases hphase with h | h <;> simp only [h, hdecode, Bool.false_eq_true, if_false]

theorem submit_of_accepted {s : State} (hidle : s.latch = none) (hphase : s.sfc.phase = .off ∨ s.sfc.phase = .wait)
    {w : Word} {i : Instr} (hdecode : decode w = .ok i) : s.submit w = s.accept i := by
  rw [State.submit, (busy_eq_false_iff s).2 hidle]
  rcases hphase with h | h <;> simp only [h, hdecode, Bool.false_eq_true, if_false]

/-- Settles O5: BUSY, then the phase, then the word decide the outcome. -/
theorem cmdWriteOutcomes : Obligations.CmdWriteOutcomes := by
  intro s w
  refine ⟨fun hbusy => submit_of_busy hbusy w, fun hidle hphase => submit_of_running_frame hidle hphase w,
    fun hidle hphase hword => ?_, fun i hidle hphase hword => ?_⟩
  · obtain ⟨e, hdecode⟩ := (Encoding.decode_eq_error_iff_toNat w).2 hword
    exact submit_of_illegal hidle hphase hdecode
  · exact submit_of_accepted hidle hphase ((Encoding.decode_eq_ok_iff_eq_encode w i).2 hword)

/-! ### Completion (R256, R271) -/

/-- Settles O6: NOP completes without an overflow and delivers nothing. -/
theorem nopOnlyCompletes : Obligations.NopOnlyCompletes :=
  ⟨CommandWords.decode_encode .nop, fun s => congrArg Host.Outcome.next (finishCommand_ok s s.draws {})⟩

/-- Settles O7: every command finishes, with results or with DOMAIN or BUSERR and none. -/
theorem commandFrame : Obligations.CommandFrame := by
  intro i s
  obtain ⟨n, o, r, hexec, herror⟩ := exec_finishes i s
  have hovf : s.flags.ovf = true → (s.finishCommand n o r).flags.ovf = true := by
    rw [finishCommand_ovf, Bool.or_eq_true]
    exact .inl
  refine ⟨_, hexec, ?_, hovf, ?_, ?_⟩
  · cases r <;> rfl
  · cases r with
    | ok r => exact .inl rfl
    | error e => exact .inr (herror e rfl)
  · cases r with
    | ok r => exact fun h => absurd rfl h
    | error e => exact fun _ => ⟨rfl, rfl, rfl, rfl, rfl, rfl, rfl, rfl⟩

end Sys2Proof.Proofs.CommandEngine
end

section
/-! PROOFS. STATUS as read (10_state.md R27, R28, R32 to R34): its bits and its coded fields. -/

namespace Sys2Proof.Proofs.StatusFields

open Sys2Proof.Machine Sys2Proof.Proofs.StatusWrite

/-- A field of a word whose bits are those of a number. -/
theorem extractLsb'_eq_ofNat {x : Word} {p n c : Nat} (h : ∀ i < n, x.getLsbD (p + i) = c.testBit i) :
    x.extractLsb' p n = BitVec.ofNat n c := by
  apply BitVec.eq_of_getLsbD_eq
  intro i hi
  rw [BitVec.getLsbD_extractLsb', BitVec.getLsbD_ofNat, h i hi]

/-- R28: BUSY is bit 0. -/
theorem getLsbD_statusWord_zero (s : State) : s.statusWord.getLsbD 0 = s.latch.isSome := by
  rw [State.getLsbD_statusWord s 0 (by decide), Flags.getLsbD_toWord _ 0 (by decide)]
  simp [State.busy]

/-- R27: each W1C flag at its bit. -/
theorem getLsbD_statusWord_flags (s : State) :
    s.statusWord.getLsbD 1 = s.flags.cmdovr ∧ s.statusWord.getLsbD 2 = s.flags.ovf
      ∧ s.statusWord.getLsbD 3 = s.flags.cmddone ∧ s.statusWord.getLsbD 10 = s.flags.done
      ∧ s.statusWord.getLsbD 11 = s.flags.late ∧ s.statusWord.getLsbD 12 = s.flags.sfcerr
      ∧ s.statusWord.getLsbD 15 = s.flags.fstart := by
  simp (disch := decide) only [getLsbD_statusWord_of_w1c, Flags.getLsbD_toWord]
  simp

/-- R32: ERR is bits [7:4]. -/
theorem statusWord_err (s : State) : s.statusWord.extractLsb' 4 4 = BitVec.ofNat 4 s.err.code := by
  refine extractLsb'_eq_ofNat fun i hi => ?_
  rw [State.getLsbD_statusWord s _ (by omega), Flags.getLsbD_toWord _ _ (by omega)]
  interval_cases i <;> simp

/-- R33: PHASE is bits [9:8]; ERR has no bit there. -/
theorem statusWord_phase (s : State) : s.statusWord.extractLsb' 8 2 = BitVec.ofNat 2 s.sfc.phase.code := by
  have herr (k : Nat) (hk : 4 ≤ k) := testBit_of_lt s.err.code_lt hk
  refine extractLsb'_eq_ofNat fun i hi => ?_
  rw [State.getLsbD_statusWord s _ (by omega), Flags.getLsbD_toWord _ _ (by omega)]
  interval_cases i <;> simp [herr]

/-- R34: SFC_CAUSE is bits [14:13]; ERR and PHASE have no bit there. -/
theorem statusWord_cause (s : State) : s.statusWord.extractLsb' 13 2 = BitVec.ofNat 2 s.cause.code := by
  have herr (k : Nat) (hk : 4 ≤ k) := testBit_of_lt s.err.code_lt hk
  have hphase (k : Nat) (hk : 2 ≤ k) := testBit_of_lt s.sfc.phase.code_lt hk
  refine extractLsb'_eq_ofNat fun i hi => ?_
  rw [State.getLsbD_statusWord s _ (by omega), Flags.getLsbD_toWord _ _ (by omega)]
  interval_cases i <;> simp [herr, hphase]

/-- R27: bits [31:16] read 0. -/
theorem statusWord_reserved (s : State) : s.statusWord.extractLsb' 16 16 = 0#16 := by
  have herr (k : Nat) (hk : 4 ≤ k) := testBit_of_lt s.err.code_lt hk
  have hphase (k : Nat) (hk : 2 ≤ k) := testBit_of_lt s.sfc.phase.code_lt hk
  have hcause (k : Nat) (hk : 2 ≤ k) := testBit_of_lt s.cause.code_lt hk
  refine extractLsb'_eq_ofNat (c := 0) fun i hi => ?_
  rw [State.getLsbD_statusWord s _ (by omega), Flags.getLsbD_toWord _ _ (by omega),
    herr _ (by omega), hphase _ (by omega), hcause _ (by omega), Nat.zero_testBit]
  simp
  omega

/-- Settles O32: the single bits, the three codes and the reserved bits. -/
theorem statusFieldsStandWhereTheRuleSays : Obligations.StatusFieldsStandWhereTheRuleSays := by
  intro s
  obtain ⟨hcmdovr, hovf, hcmddone, hdone, hlate, hsfcerr, hfstart⟩ := getLsbD_statusWord_flags s
  refine ⟨getLsbD_statusWord_zero s, hcmdovr, hovf, hcmddone, hdone, hlate, hsfcerr, hfstart, ?_, ?_, ?_,
    statusWord_reserved s⟩
  · rw [statusWord_err]
    cases s.err <;> rfl
  · rw [statusWord_phase]
    cases s.sfc.phase <;> rfl
  · rw [statusWord_cause]
    cases s.cause <;> rfl

end Sys2Proof.Proofs.StatusFields
end

section
/-! PROOFS. The value a register reads as (10_state.md R24 to R26, R35 to R57): single bits as a sum, and a narrow
field in a word. -/

namespace Sys2Proof.Proofs.RegisterValues

open Sys2Proof.Machine Sys2Proof.Claims

/-- The word `x` has the value `n`, which lies in its low `k` bits. -/
def LowValue (k : Nat) (x : Word) (n : Nat) : Prop := x.toNat = n ∧ n < 2 ^ k

theorem toNat_bitAt {k : Nat} (hk : k < 32) (b : Bool) : (bitAt b k).toNat = bitValue b k := by
  cases b with
  | false => rfl
  | true =>
    have hlt : 2 ^ k < 2 ^ 32 := Nat.pow_lt_pow_right (by decide) hk
    simp only [bitAt, bitValue, if_true, BitVec.toNat_shiftLeft, BitVec.toNat_ofNat, Nat.shiftLeft_eq, Nat.reducePow,
      Nat.reduceMod, Nat.one_mul]
    exact Nat.mod_eq_of_lt hlt

theorem bitValue_eq_mul (b : Bool) (k : Nat) : bitValue b k = 2 ^ k * b.toNat := by
  cases b <;> simp [bitValue]

theorem lowValue_bitAt {k : Nat} (hk : k < 32) (b : Bool) : LowValue (k + 1) (bitAt b k) (bitValue b k) := by
  refine ⟨toNat_bitAt hk b, ?_⟩
  rw [bitValue_eq_mul, pow_succ]
  exact Nat.mul_lt_mul_of_pos_left (Nat.lt_succ_of_le b.toNat_le) (Nat.two_pow_pos k)

/-- A bit above a value adds its place to it. -/
theorem LowValue.or_bitAt {k j : Nat} {x : Word} {n : Nat} (h : LowValue k x n) (hkj : k ≤ j) (hj : j < 32)
    (b : Bool) : LowValue (j + 1) (x ||| bitAt b j) (n + bitValue b j) := by
  obtain ⟨rfl, hlt⟩ := h
  have hbelow : x.toNat < 2 ^ j := hlt.trans_le (Nat.pow_le_pow_right (by decide) hkj)
  have hbit := (lowValue_bitAt hj b).2
  rw [bitValue_eq_mul] at hbit ⊢
  refine ⟨?_, ?_⟩
  · rw [BitVec.toNat_or, toNat_bitAt hj, bitValue_eq_mul, Nat.or_comm, ← Nat.two_pow_add_eq_or_of_lt hbelow,
      Nat.add_comm]
  · cases b
    · simp only [Bool.toNat_false, Nat.mul_zero, Nat.add_zero]
      exact hbelow.trans (Nat.pow_lt_pow_right (by decide) (Nat.lt_succ_self j))
    · simp only [Bool.toNat_true, Nat.mul_one, pow_succ]
      omega

theorem toNat_ctrl (c : Ctrl) : c.toWord.toNat = bitValue c.en 0 + bitValue c.checker 1 + bitValue c.mirror 2
    + bitValue c.pixfmt.code 3 :=
  ((((lowValue_bitAt (by decide) c.en).or_bitAt le_rfl (by decide) c.checker).or_bitAt le_rfl (by decide)
    c.mirror).or_bitAt le_rfl (by decide) c.pixfmt.code).1

theorem toNat_flags (f : Flags) : f.toWord.toNat = bitValue f.cmdovr 1 + bitValue f.ovf 2 + bitValue f.cmddone 3
    + bitValue f.done 10 + bitValue f.late 11 + bitValue f.sfcerr 12 + bitValue f.fstart 15 :=
  (((((((lowValue_bitAt (by decide) f.cmdovr).or_bitAt le_rfl (by decide) f.ovf).or_bitAt le_rfl (by decide)
    f.cmddone).or_bitAt (by decide) (by decide) f.done).or_bitAt le_rfl (by decide) f.late).or_bitAt le_rfl
    (by decide) f.sfcerr).or_bitAt (by decide) (by decide) f.fstart).1

theorem code_eq_decide (f : PixFmt) : f.code = decide (f = .l8) := by cases f <;> rfl

/-- R24, R25: Q stands in the low bits of PARAM. -/
theorem toNat_param (q : QFormat) : (0x00100700#32 ||| BitVec.ofNat 32 q.frac).toNat = 0x00100700 + q.frac := by
  cases q <;> rfl

theorem toNat_append_zero (x : BitVec 30) : (x ++ 0#2).toNat = 4 * x.toNat := by
  rw [BitVec.toNat_append, ← Nat.shiftLeft_add_eq_or_of_lt (by decide), Nat.shiftLeft_eq]
  simp only [BitVec.toNat_ofNat]
  omega

theorem toNat_append_half (x y : Half) : (x ++ y).toNat = x.toNat * 65536 + y.toNat := by
  rw [BitVec.toNat_append, ← Nat.shiftLeft_add_eq_or_of_lt y.isLt, Nat.shiftLeft_eq]

theorem toNat_readReg (s : State) (r : Reg) : (s.readReg r).toNat = registerValue s r := by
  have hwide {w : Nat} (hw : w ≤ 32) (x : BitVec w) : (x.setWidth 32).toNat = x.toNat :=
    BitVec.toNat_setWidth_of_le hw
  cases r with
  | ctrl => rw [State.readReg, toNat_ctrl, code_eq_decide, registerValue]
  | irqEn => exact toNat_flags s.irqEn
  | param => exact toNat_param s.build.q
  | lutBase => exact toNat_append_zero s.cfg.lutBase
  | fbSize => exact toNat_append_half s.cfg.fbH s.cfg.fbW
  | accR | accG | accB | fbStride | voff | marchN | shifts | faultColor | rotPeriod | transPeriod | rotFrame
  | transFrame | dirshift => exact hwide (by decide) _
  | _ => rfl

end Sys2Proof.Proofs.RegisterValues
end

section
/-! PROOFS. Register writes (10_state.md R22, R23; 44_register_access.md R252, R258): the writable bits of a word
read back, and a write's frame. -/

namespace Sys2Proof.Proofs.RegisterWrites

open Sys2Proof.Machine Sys2Proof.Claims

theorem and_allOnes (v : Word) : v = v &&& 0xFFFFFFFF#32 := BitVec.and_allOnes.symm

/-- A field of `k` bits keeps the low `k` bits of a word. -/
theorem setWidth_setWidth_eq_and (v : Word) (k : Nat) (hk : k ≤ 32) :
    (v.setWidth k).setWidth 32 = v &&& BitVec.ofNat 32 (2 ^ k - 1) := by
  have hlt : 2 ^ k - 1 < 2 ^ 32 :=
    (Nat.sub_one_lt (Nat.two_pow_pos k).ne').trans_le (Nat.pow_le_pow_right (by decide) hk)
  apply BitVec.eq_of_toNat_eq
  rw [BitVec.toNat_setWidth_of_le hk, BitVec.toNat_setWidth, BitVec.toNat_and, BitVec.toNat_ofNat, Nat.mod_eq_of_lt hlt,
    Nat.and_two_pow_sub_one_eq_mod]

/-- LUT_BASE keeps bits [31:2] (R39). -/
theorem extract_append_zero (v : Word) : v.extractLsb' 2 30 ++ 0#2 = v &&& 0xFFFFFFFC#32 := by
  apply BitVec.eq_of_getLsbD_eq
  intro i hi
  simp only [BitVec.getLsbD_append, BitVec.getLsbD_extractLsb', BitVec.getLsbD_and]
  interval_cases i <;> simp

/-- FB_SIZE keeps both halves (R42). -/
theorem extract_append_extract (v : Word) : v.extractLsb' 16 16 ++ v.extractLsb' 0 16 = v &&& 0xFFFFFFFF#32 := by
  have hjoin : v.extractLsb' 16 16 ++ v.extractLsb' 0 16 = v.extractLsb' 0 32 :=
    BitVec.extractLsb'_append_extractLsb'_eq_extractLsb' (start₁ := 0) (start₂ := 16) rfl
  rw [hjoin, BitVec.extractLsb'_eq_self]
  exact and_allOnes v

/-- R23: a write's writable bits read back, and its reserved bits as 0. -/
theorem readReg_writeReg_same (s : State) {r : Reg} {m : Word} (h : writableBits r = some m) (v : Word) :
    (s.writeReg r v).readReg r = v &&& m := by
  cases r with
  | ctrl => cases h; exact Ctrl.toWord_ofWord v
  | irqEn => cases h; exact Flags.toWord_ofWord v
  | lutBase => cases h; exact extract_append_zero v
  | fbSize => cases h; exact extract_append_extract v
  | fbStride | voff | shifts | faultColor | rotPeriod | transPeriod | rotFrame | transFrame =>
    cases h
    exact setWidth_setWidth_eq_and v 16 (by decide)
  | marchN => cases h; exact setWidth_setWidth_eq_and v 8 (by decide)
  | dirshift => cases h; exact setWidth_setWidth_eq_and v 5 (by decide)
  | opa | opb | opc | opd | fbBase | rotStep | transStep | camX | camY | camZ | u0 | v0 | pixStep | focal =>
    cases h
    exact and_allOnes v
  | _ => cases h

/-- R23: a read-only register ignores a write. -/
theorem writeReg_of_readOnly {r : Reg} (h : readOnly r = true) (s : State) (v : Word) : s.writeReg r v = s := by
  cases r with
  | id | param | res0 | res1 | accR | accG | accB | frameCos | frameSin | frameZoff | curPos | latePos | frameCount
  | lateCount => rfl
  | _ => cases h

/-- R252: a write of a read-write register but CTRL goes to the operands, IRQ_EN or the configuration. -/
theorem writeReg_frame (s : State) {r : Reg} {m : Word} (h : writableBits r = some m) (hctrl : r ≠ .ctrl) (v : Word) :
    let t := s.writeReg r v
    t = { s with irqEn := t.irqEn, opa := t.opa, opb := t.opb, opc := t.opc, opd := t.opd, cfg := t.cfg } := by
  cases r with
  | ctrl => exact absurd rfl hctrl
  | cmd | status => cases h
  | _ => rfl

/-- R252: such a write reaches no other register; off the diagonal of the register map it is another field. -/
theorem readReg_writeReg_other (s : State) {r r' : Reg} {m : Word} (h : writableBits r = some m) (hctrl : r ≠ .ctrl)
    (hother : r' ≠ r) (v : Word) : (s.writeReg r v).readReg r' = s.readReg r' := by
  cases r
  case ctrl => exact absurd rfl hctrl
  case cmd | status => cases h
  all_goals cases r' <;> first | exact absurd rfl hother | rfl

/-- Settles O27: what reads back, what ignores a write, and what a write leaves. -/
theorem registersReadBackWritableBits : Obligations.RegistersReadBackWritableBits :=
  fun s _ v => ⟨fun _ hm => readReg_writeReg_same s hm v, fun hro => writeReg_of_readOnly hro s v,
    fun _ hm hctrl => ⟨fun _ hother => readReg_writeReg_other s hm hctrl hother v, writeReg_frame s hm hctrl v⟩⟩

/-- Settles O33: the mode bits are the word's, and the phase follows EN from OFF and WAIT only. -/
theorem ctrlWriteMovesOffAndWaitOnly : Obligations.CtrlWriteMovesOffAndWaitOnly := by
  intro s v running
  have hphase : s.sfc.phase.withEnable (v.getLsbD 0)
      = if running then s.sfc.phase else if v.getLsbD 0 then .wait else .off := by
    simp only [running]
    cases s.sfc.phase <;> simp [Phase.withEnable]
  rw [← hphase]
  rfl

end Sys2Proof.Proofs.RegisterWrites
end

section
/-! PROOFS. Host accesses to the window (10_state.md R22, R57; 44_register_access.md R250 to R252; 30_encoding.md
R111): the offset decides between a register, a reserved place and an error response. -/

namespace Sys2Proof.Proofs.RegisterPort

open Sys2Proof.Machine Sys2Proof.Claims

/-- Log 29: an offset below 256 from BLOCK_BASE is that offset of the window. -/
theorem windowOffset_add (b : Build) {off : Word} (h : off.toNat < 256) :
    Build.windowOffset b (b.blockBase + off) = some off := by
  have hsub : b.blockBase + off - b.blockBase = off := by rw [BitVec.add_comm, BitVec.add_sub_cancel]
  rw [Build.windowOffset, hsub, if_pos h]

theorem portAnswers_word {off : Word} (h : off.toNat % 4 = 0) : portAnswers off .word = true := by
  simp [portAnswers, h]

/-! ### Registers (R22, R251, R252) -/

theorem ofOffset_offset (r : Reg) : Reg.ofOffset r.offset = some r := by cases r <;> rfl

theorem offset_in_window (r : Reg) : r.offset.toNat < 256 ∧ r.offset.toNat % 4 = 0 := by cases r <;> decide

theorem hostRead_register (s : State) (r : Reg) :
    s.hostRead (s.build.blockBase + r.offset) .word = { s with port := .data (s.readReg r) } := by
  obtain ⟨hwindow, haligned⟩ := offset_in_window r
  simp only [State.hostRead, windowOffset_add _ hwindow, portAnswers_word haligned, ofOffset_offset, if_true]

theorem hostWrite_register (s : State) (r : Reg) (v : Word) :
    s.hostWrite (s.build.blockBase + r.offset) .word v = { s.writeReg r v with port := .done } := by
  obtain ⟨hwindow, haligned⟩ := offset_in_window r
  simp only [State.hostWrite, windowOffset_add _ hwindow, portAnswers_word haligned, ofOffset_offset, if_true]

/-- Settles O30: the port finds the register at its offset, and its value is its fields'. -/
theorem readsHaveNoSideEffect : Obligations.ReadsHaveNoSideEffect :=
  fun s r v => ⟨hostRead_register s r, RegisterValues.toNat_readReg s r, hostWrite_register s r v⟩

/-! ### Reserved offsets (R57) -/

theorem ofOffset_reserved {off : Word}
    (h : off = 0x03C#32 ∨ (0x0B4 ≤ off.toNat ∧ off.toNat ≤ 0x0FC ∧ off.toNat % 4 = 0)) :
    Reg.ofOffset off = none := by
  have hnat : off.toNat = 0x03C ∨ 0x0B4 ≤ off.toNat := h.imp (congrArg BitVec.toNat) And.left
  unfold Reg.ofOffset
  split
  case h_45 => rfl
  all_goals omega

/-- Settles O28: the port answers, and finds no register. -/
theorem reservedOffsetsReadZero : Obligations.ReservedOffsetsReadZero := by
  intro s off v h
  have hplace : off.toNat < 256 ∧ off.toNat % 4 = 0 := by
    rcases h with rfl | ⟨-, hle, haligned⟩
    · decide
    · exact ⟨by omega, haligned⟩
  obtain ⟨hwindow, haligned⟩ := hplace
  constructor
  · simp only [State.hostRead, windowOffset_add _ hwindow, portAnswers_word haligned, ofOffset_reserved h, if_true]
  · simp only [State.hostWrite, windowOffset_add _ hwindow, portAnswers_word haligned, ofOffset_reserved h, if_true]

/-! ### Refused accesses (R250) -/

/-- Settles O29: the port does not answer. -/
theorem narrowOrMisalignedAccessFails : Obligations.NarrowOrMisalignedAccessFails := by
  intro s addr v w hin hbad
  have hwindow : Build.windowOffset s.build addr = some (addr - s.build.blockBase) := if_pos hin
  have hanswer : portAnswers (addr - s.build.blockBase) w = false := by
    rw [portAnswers, Bool.and_eq_false_iff, decide_eq_false_iff_not, decide_eq_false_iff_not]
    exact hbad
  constructor
  · simp only [State.hostRead, hwindow, hanswer, Bool.false_eq_true, if_false]
  · simp only [State.hostWrite, hwindow, hanswer, Bool.false_eq_true, if_false]

/-! ### POLL (R111) -/

/-- Settles O36: one read of STATUS, and the operation stays while the BUSY it read is 1. -/
theorem pollRepeatsUntilNotBusy : Obligations.PollRepeatsUntilNotBusy := by
  intro s rest hprogram
  have hpoll : s.program = .waitBit 0 false :: rest := hprogram
  rw [takeTurn, State.hostProgramTurn, hpoll]
  simp only [hostRead_register, StatusFields.getLsbD_statusWord_zero]
  cases s.latch <;> simp [State.readReg, hpoll]

end Sys2Proof.Proofs.RegisterPort
end

section
/-! PROOFS. Platform memory (20_memory.md R72, R77, R81, R82): a master-port write and the read after it, a write
that got an error response, and a host write from its waiting to its publication. -/

namespace Sys2Proof.Proofs.PlatformMemory

open Sys2Proof.Machine Sys2Proof.Claims Sys2Proof.Proofs.Framebuffer

/-! ### A master-port write and read (R72, R81) -/

/-- The place of a byte in an access, from its address. -/
theorem toNat_offset (a : Word) {k : Nat} (hk : k < 4) : (a + BitVec.ofNat 32 k - a).toNat = k := by
  rw [BitVec.add_comm, BitVec.add_sub_cancel, BitVec.toNat_ofNat, Nat.mod_eq_of_lt (by omega)]

/-- R72: a read of bytes that are visibly those of `v`, with nothing pending, is `v` cut to its width. -/
theorem readBytes_of_visible {s : State} (k n : Nat) {a v : Word}
    (hclear : ∀ j < k, s.pendingAt (a + BitVec.ofNat 32 j) = [])
    (hvisible : ∀ j < k, s.visibleByte (a + BitVec.ofNat 32 j) = byteOf v j) :
    s.readBytes k n a = (v.toNat % 256 ^ k, n) := by
  induction k generalizing a v with
  | zero => rw [State.readBytes, pow_zero, Nat.mod_one]
  | succ k ih =>
    have hnext (j : Nat) : a + 1#32 + BitVec.ofNat 32 j = a + BitVec.ofNat 32 (j + 1) := by
      rw [Nat.add_comm, BitVec.ofNat_add, BitVec.add_assoc]
    have hrest : s.readBytes k n (a + 1#32) = ((v >>> 8).toNat % 256 ^ k, n) := by
      refine ih (fun j hj => ?_) (fun j hj => ?_)
      · rw [hnext]
        exact hclear (j + 1) (by omega)
      · rw [hnext, hvisible (j + 1) (by omega)]
        exact (byte_shiftRight v j).symm
    have hclear0 : s.pendingAt a = [] := by simpa using hclear 0 (by omega)
    have hvisible0 : s.visibleByte a = byteOf v 0 := by simpa using hvisible 0 (by omega)
    simp only [State.readBytes, s.readByte_clear n hclear0, hrest, hvisible0, byteOf, BitVec.extractLsb'_toNat,
      BitVec.toNat_ushiftRight, Nat.shiftRight_eq_div_pow, Nat.mul_zero, Nat.reducePow, Nat.div_one]
    rw [pow_succ', Nat.mod_mul]

/-- R81: after a write, its bytes are the visible ones. -/
theorem visibleByte_of_stored {s : State} {m : Memory} {a v : Word} {w : Width} (h : stored s.mem m a w v) {k : Nat}
    (hk : k < w.bytes) : ({ s with mem := m } : State).visibleByte (a + BitVec.ofNat 32 k) = byteOf v k := by
  have hoffset := toNat_offset a (hk.trans_le w.bytes_le)
  have hget := h (a + BitVec.ofNat 32 k)
  rw [hoffset, if_pos hk] at hget
  rw [State.visibleByte, hget, Option.getD_some]

theorem busRead_of_stored {s : State} {m : Memory} {a v : Word} {w : Width} (h : stored s.mem m a w v) (n : Nat)
    (hok : Build.busOk s.build a w .read = true)
    (hclear : ∀ k < w.bytes, s.pendingAt (a + BitVec.ofNat 32 k) = []) :
    ({ s with mem := m } : State).busRead n a w = (some (BitVec.ofNat 32 (v.toNat % 2 ^ (8 * w.bytes))), n) := by
  have hbytes := readBytes_of_visible (s := { s with mem := m }) w.bytes n hclear
    (fun j hj => visibleByte_of_stored h hj)
  rw [State.busRead, if_pos hok, hbytes, pow_mul]
  rfl

/-- Settles O37: the write is stored, and the bytes it stored are what a read there finds. -/
theorem busWriteStoresItsBytesOnly : Obligations.BusWriteStoresItsBytesOnly := by
  intro s a v w hok
  have hstored := stored_store s.mem a w v
  exact ⟨_, hstored, if_pos hok, fun n => busRead_of_stored hstored n⟩

/-- Settles O38: such a write is torn, byte by byte. -/
theorem failedWriteLeavesOldOrNewBytes : Obligations.FailedWriteLeavesOldOrNewBytes :=
  fun s a v w hno => ⟨_, torn_storeSome s.mem s.draws a w v, if_neg (Bool.not_eq_true _ ▸ hno)⟩

/-! ### A host write (R82, R84) -/

/-- Log 6, log 22: outside the window a host write only adds its cells to the pending ones. -/
theorem hostWrite_of_outside {s : State} {a : Word} (h : ¬ inWindow s a) (w : Width) (v : Word) :
    s.hostWrite a w v = { s with pending := s.pending ++ writtenCells w.bytes a v, port := .done } := by
  have hwindow : Build.windowOffset s.build a = none := if_neg h
  rw [State.hostWrite, hwindow]

/-- Log 7: with no command BUSY and the frame controller OFF nothing is contested. -/
theorem contested_of_quiet {s : State} (hlatch : s.latch = none) (hphase : s.sfc.phase = .off) (a : Nat) :
    s.contested a = false := by
  rw [State.contested, hlatch, hphase]
  rfl

theorem hostPublish_of_quiet {s : State} (hlatch : s.latch = none) (hphase : s.sfc.phase = .off) :
    s.hostPublish = { s with mem := Memory.setAll s.mem s.pending, pending := [] } := by
  simp [State.hostPublish, contested_of_quiet hlatch hphase]

/-- The byte a host write leaves at each address of its access. -/
theorem writtenCells_byte {n k : Nat} (hk : k < n) (hn : n ≤ 4) (a v : Word) :
    (writtenCells n a v).filterMap (fun c => if c.1 = (a + BitVec.ofNat 32 k).toNat then some c.2 else none)
      = [byteOf v k] := by
  rw [writtenCells_at n a v _ hn, toNat_offset a (by omega), if_pos hk, byteOf]

theorem writtenCells_addr_lt {n : Nat} {a v : Word} {c : Host.Cell} (h : c ∈ writtenCells n a v) :
    c.1 < 2 ^ 32 := by
  induction n generalizing a v with
  | zero => cases h
  | succ n ih =>
    rcases List.mem_cons.1 h with rfl | h
    · exact a.isLt
    · exact ih h

/-- R82: published last, the cells of a host write are what memory holds at its addresses. -/
theorem get_setAll_writtenCells (m : Memory) (cells : List Host.Cell) {n k : Nat} (hk : k < n) (hn : n ≤ 4)
    (a v : Word) :
    Memory.get (Memory.setAll m (cells ++ writtenCells n a v)) (a + BitVec.ofNat 32 k).toNat = some (byteOf v k) := by
  have hlast : (writtenCells n a v).filterMap
      (fun c => if c.1 % 2 ^ 32 = (a + BitVec.ofNat 32 k).toNat then some c.2 else none) = [byteOf v k] := by
    rw [← writtenCells_byte hk hn a v]
    refine List.filterMap_congr fun c hc => ?_
    rw [Nat.mod_eq_of_lt (writtenCells_addr_lt hc)]
  rw [Memory.get_setAll, List.filterMap_append, hlast, List.getLast?_concat, Option.some_or]

/-- Settles O39: the write waits, and is then published after all that waited before it. -/
theorem publishedHostWriteIsVisible : Obligations.PublishedHostWriteIsVisible := by
  intro s a v w houtside hlatch hphase
  let t : State := { s with pending := s.pending ++ writtenCells w.bytes a v, port := .done }
  have hpublish : t.hostPublish = { t with mem := Memory.setAll t.mem t.pending, pending := [] } :=
    hostPublish_of_quiet hlatch hphase
  refine ⟨t, _, congrArg Host.Outcome.next (hostWrite_of_outside houtside w v),
    congrArg Host.Outcome.next hpublish, rfl, rfl, fun k hk => ?_, fun k hk => ?_⟩
  · rw [State.pendingAt, List.filterMap_append, writtenCells_byte hk w.bytes_le]
    rfl
  · rw [State.visibleByte, get_setAll_writtenCells s.mem s.pending hk w.bytes_le, Option.getD_some]

end Sys2Proof.Proofs.PlatformMemory
end

section
/-! PROOFS. Bounds of the raymarch loop (42_raymarcher.md R183, R187, R188). -/

namespace Sys2Proof.Proofs.MarchBounds

open Sys2Proof.Machine Sys2Proof.Claims Sys2Proof.Proofs.March

/-- A colour of an entry is one byte (R160). -/
theorem colour_le (e : Word) : entryR e ≤ 255 ∧ entryG e ≤ 255 ∧ entryB e ≤ 255 :=
  ⟨Nat.le_of_lt_succ (e.extractLsb' 16 8).isLt, Nat.le_of_lt_succ (e.extractLsb' 8 8).isLt,
    Nat.le_of_lt_succ (e.extractLsb' 0 8).isLt⟩

theorem sum_map_le {f : Word → Nat} (hf : ∀ e, f e ≤ 255) (es : List Word) :
    (es.map f).sum ≤ 255 * es.length := by
  have hsum := List.sum_le_card_nsmul (es.map f) 255 (by simpa using fun e _ => hf e)
  rwa [List.length_map, smul_eq_mul, Nat.mul_comm] at hsum

/-- R183: a colour summed over the entries before a hit, and over the hit for the iterations left. -/
theorem sum_map_add_le {f : Word → Nat} (hf : ∀ e, f e ≤ 255) {es : List Word} {n : Nat} (hn : es.length < n)
    (e : Word) : (es.map f).sum + f e * (n - es.length) ≤ 255 * n := by
  have hsum := sum_map_le hf es
  have hhit := Nat.mul_le_mul_right (n - es.length) (hf e)
  omega

/-- R183: each accumulator is at most 255 for each of the N iterations. -/
theorem accumulators_le_of_rayEnds {s : State} {c : Cfg} {ray : Ray} {o : RayEnd} (h : rayEnds s c ray o) :
    o.ar ≤ 255 * c.marchN.toNat ∧ o.ag ≤ 255 * c.marchN.toNat ∧ o.ab ≤ 255 * c.marchN.toNat := by
  have hR (e : Word) := (colour_le e).1
  have hG (e : Word) := (colour_le e).2.1
  have hB (e : Word) := (colour_le e).2.2
  obtain ⟨pre, -, ⟨e, -, hlt, -, har, hag, hab, -⟩ | ⟨hlen, -, har, hag, hab, -⟩⟩ := h
  · rw [har, hag, hab]
    exact ⟨sum_map_add_le hR hlt e, sum_map_add_le hG hlt e, sum_map_add_le hB hlt e⟩
  · rw [har, hag, hab, ← hlen]
    exact ⟨sum_map_le hR pre, sum_map_le hG pre, sum_map_le hB pre⟩

/-- R187: without a hit a ray fetches N times. -/
theorem fetches_eq_of_no_hit {s : State} {c : Cfg} {ray : Ray} {o : RayEnd} (h : rayEnds s c ray o)
    (hhit : o.hit = false) : o.fetches = c.marchN.toNat := by
  obtain ⟨pre, -, ⟨e, -, -, -, -, -, -, -, htrue⟩ | ⟨hlen, -, -, -, -, hcount, -⟩⟩ := h
  · rw [hhit] at htrue
    cases htrue
  · rw [hcount, hlen]

/-- Settles O23: the march ends as the claim's ray, which the bounds hold of. -/
theorem marchIsBoundedByN : Obligations.MarchIsBoundedByN := by
  intro s c ray n o hmarch
  have hends : rayEnds s c ray (rayEndOf o) := by
    rcases march_followsRay s c ray n with ⟨o', hsome, hends⟩ | ⟨hnone, -⟩
    · rw [hmarch] at hsome
      cases hsome
      exact hends
    · rw [hmarch] at hnone
      cases hnone
  obtain ⟨har, hag, hab⟩ := accumulators_le_of_rayEnds hends
  have hN := c.marchN.isLt
  exact ⟨fetches_le_of_rayEnds hends, har, hag, hab, by omega, fetches_eq_of_no_hit hends⟩

/-- Settles O24: the first of N iterations is a hit. -/
theorem firstHitGivesColourTimesN : Obligations.FirstHitGivesColourTimesN := by
  intro s c ray n m e hpos hfetch hhit
  obtain ⟨k, hk⟩ := Nat.exists_eq_add_of_lt hpos
  rw [Nat.zero_add] at hk
  rw [march, hk, marchLoop_of_hit hfetch hhit]
  simp only [Nat.zero_add]

end Sys2Proof.Proofs.MarchBounds
end

section
/-! PROOFS. The PRE step (43_frame_controller.md R211; 60_exceptions.md R276, R278). -/

namespace Sys2Proof.Proofs.PreStep

open Sys2Proof.Machine Sys2Proof.Claims Sys2Proof.Proofs.FrameConstants

/-- R210: the PRE step is held while a command is BUSY. -/
theorem sfcTurn_of_pre {s : State} (h : s.sfc.phase = .pre) :
    s.sfcTurn = if s.latch ≠ none then s else s.preStep := by
  rw [State.sfcTurn, h, State.busy]
  cases s.latch <;> rfl

theorem preStep_of_illegal {s : State} (h : (Snap.take s).configOk = false) :
    s.preStep = faulted { s with sfc := { s.sfc with snap := Snap.take s } } .config := by
  rw [State.preStep, h]
  rfl

theorem preStep_of_domain {s : State} (hconfig : (Snap.take s).configOk = true)
    (h : 4 * one s.build.q ≤ frameAngle s.cfg) :
    s.preStep = faulted { s with sfc := { s.sfc with snap := Snap.take s } } .domain := by
  have hnone : frameConst s.build.q (Snap.take s).cfg = none := frameConst_eq_none h
  rw [State.preStep, hconfig, hnone]
  rfl

/-- R211: a legal frame within the four quadrants starts with its constants. -/
theorem preStep_of_start {s : State} (hconfig : (Snap.take s).configOk = true)
    (h : ¬ 4 * one s.build.q ≤ frameAngle s.cfg) :
    let c := BitVec.ofInt 32 (cosSin s.build.q (frameAngle s.cfg)).1
    let k := BitVec.ofInt 32 (cosSin s.build.q (frameAngle s.cfg)).2
    let z := s.cfg.transFrame.setWidth 32 * s.cfg.transStep
    s.preStep = { s with
      frameCos := c, frameSin := k, frameZoff := z
      sfc := { s.sfc with
        phase := .active, snap := Snap.take s, fcos := c, fsin := k, zoff := z
        cursor := (Snap.take s).firstCursor } } := by
  have hsome := frameConst_eq_some (c := (Snap.take s).cfg) h
  rw [State.preStep, hconfig, hsome]
  rfl

/-- Settles O42: BUSY, then the configuration, then the angle decide. -/
theorem preStepStartsTheFrame : Obligations.PreStepStartsTheFrame := by
  intro s hpre sn s1 th c k z
  rw [takeTurn, sfcTurn_of_pre hpre]
  by_cases hbusy : s.latch ≠ none
  · rw [if_pos hbusy, if_pos hbusy]
  rw [if_neg hbusy, if_neg hbusy]
  by_cases hconfig : sn.configOk = false
  · rw [if_pos hconfig, preStep_of_illegal hconfig]
    rfl
  have hlegal : (Snap.take s).configOk = true := Bool.eq_true_of_not_eq_false hconfig
  rw [if_neg hconfig]
  by_cases hangle : 4 * one s.build.q ≤ th
  · rw [if_pos hangle, preStep_of_domain hlegal hangle]
    rfl
  · rw [if_neg hangle, preStep_of_start hlegal hangle]
    rfl

end Sys2Proof.Proofs.PreStep
end

section
/-! PROOFS. Columns of a row (43_frame_controller.md R213, R220): the model's search through them is the claims'
list of them, and its pixel classes are the claims'. -/

namespace Sys2Proof.Proofs.Columns

open Sys2Proof.Machine Sys2Proof.Claims

/-- R213: the claim's reconstructed pixels are the model's. -/
theorem skipped_eq_skippedPixel (sn : Snap) (x y : Nat) : sn.skipped x y = skippedPixel sn x y := by
  have hodd : decide ((x + y) % 2 = 1) = !decide ((x + y) % 2 = 0) := by
    rw [← decide_not]
    exact decide_eq_decide.2 (by omega)
  rw [Snap.skipped, Snap.rendered, skippedPixel, hodd]
  change (!sn.mirrored y && _) = (!sn.mirrored y && _ && _)
  cases sn.mirrored y <;> cases sn.checker <;> simp

/-- R220: the columns FAULT paints are those of the row not yet written. -/
theorem unwritten_eq_paintedColumn (sn : Snap) (x0 y x : Nat) :
    sn.unwritten x0 y x = paintedColumn sn x0 y x := by
  rw [Snap.unwritten, paintedColumn, ← skipped_eq_skippedPixel, Snap.skipped, Snap.rendered]
  by_cases h : x < x0
  · simp [h, Nat.not_le.2 h]
  · simp [h, Nat.not_lt.1 h]

/-- The search of a row is the search of the list of its columns. -/
theorem nextCol_eq_find? (p : Nat → Bool) (n x : Nat) : nextCol p n x = (List.range' x n).find? p := by
  induction n generalizing x with
  | zero => rfl
  | succ n ih =>
    rw [nextCol, List.range'_succ, List.find?_cons, ih]
    cases p x <;> rfl

/-- The columns of a row from `x` on that satisfy a predicate. -/
def columnsFrom (sn : Snap) (p : Nat → Bool) (x : Nat) : List Nat := (List.range' x (sn.w - x)).filter p

theorem columnsFrom_zero (sn : Snap) (p : Nat → Bool) : columnsFrom sn p 0 = columns sn p := by
  rw [columnsFrom, Nat.sub_zero, ← List.range_eq_range']
  rfl

/-- The search from a column finds the head of the columns from there on. -/
theorem nextCol_eq_head? (sn : Snap) (p : Nat → Bool) (x : Nat) :
    nextCol p (sn.w - x) x = (columnsFrom sn p x).head? := by
  rw [nextCol_eq_find?, columnsFrom, List.head?_filter]

/-- The columns after `x`, picked from the whole row. -/
theorem columns_after {sn : Snap} {x : Nat} (hx : x < sn.w) (p : Nat → Bool) :
    (columns sn fun z => decide (x < z) && p z) = columnsFrom sn p (x + 1) := by
  have hsplit : List.range sn.w = List.range' 0 (x + 1) ++ List.range' (x + 1) (sn.w - (x + 1)) := by
    have hjoin := List.range'_append_1 (s := 0) (m := x + 1) (n := sn.w - (x + 1))
    rw [Nat.zero_add, Nat.add_sub_cancel' hx] at hjoin
    rw [hjoin, List.range_eq_range']
  have hbefore : (List.range' 0 (x + 1)).filter (fun z => decide (x < z) && p z) = [] := by
    refine List.filter_eq_nil_iff.2 fun z hz => ?_
    have hle : z ≤ x := by
      rw [List.mem_range'_1] at hz
      omega
    simp [hle]
  have hafter : (List.range' (x + 1) (sn.w - (x + 1))).filter (fun z => decide (x < z) && p z)
      = columnsFrom sn p (x + 1) := by
    refine List.filter_congr fun z hz => ?_
    rw [List.mem_range'_1] at hz
    simp [show x < z by omega]
  change (List.range sn.w).filter _ = _
  rw [hsplit, List.filter_append, hbefore, hafter, List.nil_append]

end Sys2Proof.Proofs.Columns
end

section
/-! PROOFS. SYNC, mirror copies and FAULT (43_frame_controller.md R207, R218, R220, R224): the turns of a cursor that
waits, copies, or finds its row late. -/

namespace Sys2Proof.Proofs.LateRows

open Sys2Proof.Machine Sys2Proof.Claims Sys2Proof.Proofs.Framebuffer Sys2Proof.Proofs.Columns

/-- R207: the two sub-phases whose operation a SYNC guards. -/
theorem activeStep_of_guarded {s : State} (h : s.sfc.cursor.sub = .render ∨ s.sfc.cursor.sub = .mirror) :
    ∃ op, s.activeStep = s.guarded s.sfc.cursor.x s.sfc.cursor.y op := by
  rcases h with h | h
  · exact ⟨_, by rw [State.activeStep, h]⟩
  · exact ⟨_, by rw [State.activeStep, h]⟩

theorem guarded_of_hold {s : State} {y : Nat} (hlatch : s.sfc.lateLatch = false)
    (hline : s.line.toNat ≤ s.sfc.snap.cfg.voff.toNat + y) (x : Nat) (op : State → State) :
    s.guarded x y op = { s with curPos := position y x } := by
  rcases s.guarded_cases x y op with ⟨hlate, -⟩ | ⟨-, hok, -⟩ | ⟨-, -, h⟩
  · rw [hlatch] at hlate
    cases hlate
  · omega
  · rw [h, posWord_eq_position]

theorem guarded_of_late {s : State} (hlatch : s.sfc.lateLatch = true) (x y : Nat) (op : State → State) :
    s.guarded x y op = State.startFault { s with curPos := position y x } x y := by
  rcases s.guarded_cases x y op with ⟨-, h⟩ | ⟨hnot, -⟩ | ⟨hnot, -⟩
  · rw [h, posWord_eq_position]
  · rw [hlatch] at hnot
    cases hnot
  · rw [hlatch] at hnot
    cases hnot

/-- Settles O43: the guarded operation does not run. -/
theorem syncHoldsUntilLinePasses : Obligations.SyncHoldsUntilLinePasses := by
  intro s hphase hsub hlatch hline
  obtain ⟨op, hstep⟩ := activeStep_of_guarded hsub
  rw [takeTurn, sfcTurn_of_active hphase, hstep, guarded_of_hold hlatch hline]

/-- R218: a mirror copy by the answer to its read. -/
theorem mirrorPixel_cases (s : State) (x y : Nat) :
    let src := (s.sfc.snap.w - 1 - x, s.sfc.snap.h - 1 - y)
    ∃ n, (∃ v, pixelRead s src v
        ∧ s.mirrorPixel x y = State.writePixelThen { s with draws := n } x y v State.advanceCursor)
      ∨ (pixelFails s src ∧ s.mirrorPixel x y = State.raiseSfcFault { s with draws := n } .buserr) := by
  intro src
  rcases readPixel_cases s s.draws (s.sfc.snap.w - 1 - x) (s.sfc.snap.h - 1 - y) with
    ⟨hread, hfails⟩ | ⟨v, n, hread, hv⟩
  · exact ⟨_, .inr ⟨hfails, by rw [State.mirrorPixel, hread]⟩⟩
  · exact ⟨n, .inl ⟨v, hv, by rw [State.mirrorPixel, hread]⟩⟩

/-- A pixel read does not look at CUR_POS. -/
theorem pixelRead_curPos (s : State) (c : Word) (p : Nat × Nat) (v : Word) :
    pixelRead { s with curPos := c } p v ↔ pixelRead s p v := by
  simp only [pixelRead, mayRead, State.visibleByte, State.pendingAt]

theorem pixelFails_curPos (s : State) (c : Word) (p : Nat × Nat) :
    pixelFails { s with curPos := c } p ↔ pixelFails s p := by
  simp only [pixelFails]

/-- Settles O46: the SYNC passes, and the pixel is copied on the state with CUR_POS written. -/
theorem mirrorCopiesTheOppositePixel : Obligations.MirrorCopiesTheOppositePixel := by
  intro s x y hphase hcursor hlatch hline sn src
  let s0 : State := { s with curPos := position y x }
  have hturn : s.sfcTurn = s0.mirrorPixel x y := by
    rw [sfcTurn_of_active hphase, State.activeStep, hcursor]
    exact guarded_of_ok hlatch hline x _
  obtain ⟨n, ⟨v, hv, hcopy⟩ | ⟨hfails, hcopy⟩⟩ := mirrorPixel_cases s0 x y
  · refine ⟨_, n, congrArg Host.Outcome.next (hturn.trans hcopy), .inl ⟨v, (pixelRead_curPos ..).1 hv, ?_⟩⟩
    exact pixelWritten_advance (s := { s0 with draws := n }) hcursor x y v
  · exact ⟨_, n, congrArg Host.Outcome.next (hturn.trans hcopy), .inr ⟨(pixelFails_curPos ..).1 hfails, rfl⟩⟩

/-- Settles O47: FAULT starts, and finds a column: the one it was late at, if no other. -/
theorem lateSyncStartsPainting : Obligations.LateSyncStartsPainting := by
  intro s x y hphase hcursor hlatch hx
  have hsub : s.sfc.cursor.sub = .render ∨ s.sfc.cursor.sub = .mirror :=
    hcursor.imp (congrArg Cursor.sub) (congrArg Cursor.sub)
  have hplace : s.sfc.cursor.x = x ∧ s.sfc.cursor.y = y := by
    rcases hcursor with h | h <;> rw [h] <;> exact ⟨rfl, rfl⟩
  obtain ⟨op, hstep⟩ := activeStep_of_guarded hsub
  rw [hplace.1, hplace.2, guarded_of_late hlatch] at hstep
  rcases State.startFault_cases { s with curPos := position y x } x y with
    ⟨x1, hx1, hpaint, hnone, h⟩ | ⟨hnone, -⟩
  · rw [unwritten_eq_paintedColumn] at hpaint
    refine ⟨x1, hx1, hpaint, fun z hz => ?_, ?_⟩
    · rw [← unwritten_eq_paintedColumn]
      exact hnone z hz
    · have hphase' : ({ s with
          curPos := position y x
          sfc := { s.sfc with cursor := ⟨.paint x, y, x1⟩ } } : State).sfc.phase = .active := hphase
      rw [takeTurn, takeTurn, sfcTurn_of_active hphase, hstep, h, sfcTurn_of_active hphase']
      rfl
  · have hself : s.sfc.snap.unwritten x y x = false := hnone x hx
    simp [Snap.unwritten] at hself

/-- R220: what follows a painted pixel, by the columns of the row still to paint. -/
theorem afterPaint_eq (s : State) (x0 y : Nat) {x : Nat} (hx : x < s.sfc.snap.w) :
    s.afterPaint x0 y x
      = ((columns s.sfc.snap fun z => decide (x < z) && paintedColumn s.sfc.snap x0 y z).head?).elim
          (s.lateEnd x0 y) fun z => { s with sfc := { s.sfc with cursor := ⟨.paint x0, y, z⟩ } } := by
  have hpainted : s.sfc.snap.unwritten x0 y = paintedColumn s.sfc.snap x0 y :=
    funext (unwritten_eq_paintedColumn s.sfc.snap x0 y)
  rw [columns_after hx, ← nextCol_eq_head?, State.afterPaint, hpainted]
  cases nextCol (paintedColumn s.sfc.snap x0 y) (s.sfc.snap.w - (x + 1)) (x + 1) <;> rfl

/-- Settles O48: the pixel write, and then the next column or the bookkeeping. -/
theorem faultPaintsTheRowAndEndsTheFrame : Obligations.FaultPaintsTheRowAndEndsTheFrame := by
  intro s x0 y x hphase hcursor hx sn
  have hturn : s.sfcTurn = s.paintPixel x0 y x := by
    rw [sfcTurn_of_active hphase, State.activeStep, hcursor]
  refine ⟨_, congrArg Host.Outcome.next hturn, ?_⟩
  convert pixelWritten_writePixelThen s x y (sn.cfg.faultColor.setWidth 32) (fun t => t.afterPaint x0 y x)
    using 2 with m
  · rw [afterPaint_eq { s with mem := m } x0 y hx]
    cases (columns sn fun z => decide (x < z) && paintedColumn sn x0 y z).head? with
    | some z => rfl
    | none =>
      change _ = State.lateEnd { s with mem := m } x0 y
      rw [State.lateEnd, FrameBounds.endFrame_eq_frameEnded, posWord_eq_position]
      rfl
  · rfl

end Sys2Proof.Proofs.LateRows
end

section
/-! PROOFS. The order of the active phase (43_frame_controller.md R213, R214): the sub-phases of a frame follow each
other row by row, and the cursor goes through the columns of each. -/

namespace Sys2Proof.Proofs.FrameOrder

open Sys2Proof.Machine Sys2Proof.Claims Sys2Proof.Proofs.Columns

/-! ### Sub-phases in order -/

/-- From the sub-phase `p` of its row the frame runs through exactly the sub-phases of a list, and then ends. -/
inductive Runs (sn : Snap) : SubPhase × Nat → List (SubPhase × Nat) → Prop
  | finish (y : Nat) : Runs sn (.finish, y) []
  | next {p : SubPhase × Nat} {l : List (SubPhase × Nat)} (hp : p.1 ≠ .finish)
      (hl : Runs sn (sn.subNext p.1 p.2) l) : Runs sn p (p :: l)

/-- The sub-phases while row `y` is the current row. -/
def rowPhases (sn : Snap) (y : Nat) : List (SubPhase × Nat) :=
  if sn.mirrored y then (if sn.checker && !sn.mirrored (y - 1) then [(.recon, y)] else []) ++ [(.mirror, y)]
  else (.render, y) :: if sn.checker && decide (1 ≤ y) then [(.recon, y)] else []

/-- The reconstruction of the last row. -/
def lastPhases (sn : Snap) : List (SubPhase × Nat) :=
  if sn.checker && !sn.mirrored (sn.h - 1) then [(.recon, sn.h)] else []

/-- The sub-phases from the start of row `y` on. -/
def phasesFrom (sn : Snap) (y : Nat) : List (SubPhase × Nat) :=
  (List.range' y (sn.h - y)).flatMap (rowPhases sn) ++ lastPhases sn

theorem runs_lastPhases (sn : Snap) : Runs sn (sn.rowStart sn.h) (lastPhases sn) := by
  have hend : sn.subNext .recon sn.h = (.finish, sn.h) := by rw [Snap.subNext, if_pos le_rfl]
  rw [Snap.rowStart, if_pos le_rfl, lastPhases]
  split
  · exact .next nofun (hend ▸ .finish sn.h)
  · exact .finish sn.h

/-- A row's sub-phases, and then those from the next row's start. -/
theorem runs_rowPhases {sn : Snap} {y : Nat} (hy : y < sn.h) {l : List (SubPhase × Nat)}
    (hl : Runs sn (sn.rowStart (y + 1)) l) : Runs sn (sn.rowStart y) (rowPhases sn y ++ l) := by
  have hrow : ¬ sn.h ≤ y := Nat.not_le.2 hy
  cases hm : sn.mirrored y
  case true =>
    have hmirror : Runs sn (.mirror, y) ((.mirror, y) :: l) := .next nofun hl
    have hrecon : sn.subNext .recon y = (.mirror, y) := by simp [Snap.subNext, hrow, hm]
    simp only [Snap.rowStart, rowPhases, hrow, hm, Bool.not_true, Bool.false_eq_true, if_false, if_true]
    split
    · exact .next nofun (hrecon ▸ hmirror)
    · exact hmirror
  case false =>
    have hrecon : sn.subNext .recon y = sn.rowStart (y + 1) := by simp [Snap.subNext, hrow, hm]
    simp only [Snap.rowStart, rowPhases, hrow, hm, Bool.not_false, Bool.false_eq_true, if_false, if_true]
    refine .next nofun ?_
    rw [Snap.subNext]
    split
    · exact .next nofun (hrecon ▸ hl)
    · exact hl

/-- R214: the sub-phases of the rows from `y` on, by induction from the last row back. -/
theorem runs_phasesFrom {sn : Snap} {y : Nat} (hy : y ≤ sn.h) : Runs sn (sn.rowStart y) (phasesFrom sn y) := by
  induction hy using Nat.decreasingInduction with
  | self =>
    rw [phasesFrom, Nat.sub_self]
    exact runs_lastPhases sn
  | of_succ y hlt ih =>
    have hrange : List.range' y (sn.h - y) = y :: List.range' (y + 1) (sn.h - (y + 1)) := by
      rw [← List.range'_succ, show sn.h - (y + 1) + 1 = sn.h - y by omega]
    rw [phasesFrom, hrange, List.flatMap_cons, List.append_assoc]
    exact runs_rowPhases hlt ih

theorem length_rowPhases_le (sn : Snap) (y : Nat) : (rowPhases sn y).length ≤ 2 := by
  unfold rowPhases
  split
  · split <;> simp
  · split <;> simp

/-- A frame has at most two sub-phases per row and the last reconstruction. -/
theorem length_phasesFrom_lt (sn : Snap) : (phasesFrom sn 0).length < sn.subCount := by
  have hrows : ((List.range' 0 (sn.h - 0)).flatMap (rowPhases sn)).length ≤ sn.h * 2 := by
    rw [List.length_flatMap]
    have hsum := List.sum_le_card_nsmul ((List.range' 0 (sn.h - 0)).map fun y => (rowPhases sn y).length) 2
      (by simpa using fun y _ => length_rowPhases_le sn y)
    rwa [List.length_map, List.length_range', smul_eq_mul] at hsum
  have hlast : (lastPhases sn).length ≤ 1 := by
    unfold lastPhases
    split <;> simp
  rw [phasesFrom, List.length_append, Snap.subCount]
  omega

/-! ### The cursor through the columns of a sub-phase -/

/-- The pixel operations of a sub-phase from column `x` on. -/
def opsFrom (sn : Snap) (p : SubPhase × Nat) (x : Nat) : List Cursor :=
  (columnsFrom sn (sn.works p.1 p.2) x).map fun z => ⟨p.1, p.2, z⟩

/-- All pixel operations of a sub-phase. -/
def phaseOps (sn : Snap) (p : SubPhase × Nat) : List Cursor := opsFrom sn p 0

/-- The cursor `c` stands at the head of the operations to come, or is at the end. -/
def Ahead (sn : Snap) (c : Cursor) (ops : List Cursor) : Prop :=
  (ops = [] ∧ c.sub = .finish)
    ∨ ∃ l, Runs sn (c.sub, c.y) ((c.sub, c.y) :: l) ∧ l.length < sn.subCount
        ∧ ops = c :: (opsFrom sn (c.sub, c.y) (c.x + 1) ++ l.flatMap (phaseOps sn))

/-- Columns left: the next one, and those after it. -/
theorem columnsFrom_cons {sn : Snap} {p : Nat → Bool} {x z : Nat} (h : nextCol p (sn.w - x) x = some z) :
    columnsFrom sn p x = z :: columnsFrom sn p (z + 1) := by
  obtain ⟨hle, hlt, hz, hbefore⟩ := nextCol_some h
  have hsplit : List.range' x (sn.w - x) = List.range' x (z - x) ++ z :: List.range' (z + 1) (sn.w - (z + 1)) := by
    have hjoin := List.range'_append_1 (s := x) (m := z - x) (n := sn.w - (z + 1) + 1)
    rw [Nat.add_sub_cancel' hle, show z - x + (sn.w - (z + 1) + 1) = sn.w - x by omega, List.range'_succ] at hjoin
    exact hjoin.symm
  have hnone : (List.range' x (z - x)).filter p = [] := by
    refine List.filter_eq_nil_iff.2 fun k hk => ?_
    rw [List.mem_range'_1] at hk
    rw [hbefore k hk.1 (by omega)]
    exact Bool.false_ne_true
  rw [columnsFrom, hsplit, List.filter_append, hnone, List.nil_append, List.filter_cons_of_pos hz]
  rfl

theorem columnsFrom_nil {sn : Snap} {p : Nat → Bool} {x : Nat} (h : nextCol p (sn.w - x) x = none) :
    columnsFrom sn p x = [] := by
  rw [nextCol_eq_head?] at h
  exact List.head?_eq_none_iff.1 h

theorem seek_finish (sn : Snap) (n y x : Nat) : sn.seek n .finish y x = ⟨.finish, y, 0⟩ := by
  cases n <;> rfl

/-- One sub-phase of the search (R214). -/
theorem seek_succ {sn : Snap} {sub : SubPhase} (hsub : sub ≠ .finish) (n y x : Nat) :
    sn.seek (n + 1) sub y x = match nextCol (sn.works sub y) (sn.w - x) x with
      | some z => ⟨sub, y, z⟩
      | none => sn.seek n (sn.subNext sub y).1 (sn.subNext sub y).2 0 := by
  cases sub with
  | finish => exact absurd rfl hsub
  | _ => rfl

/-- The search finds the head of the operations to come; its bound covers the sub-phases left. -/
theorem ahead_seek {sn : Snap} {n : Nat} {p : SubPhase × Nat} {l : List (SubPhase × Nat)} (x : Nat)
    (hruns : Runs sn p (p :: l)) (hn : l.length < n) (hcount : n ≤ sn.subCount) :
    Ahead sn (sn.seek n p.1 p.2 x) (opsFrom sn p x ++ l.flatMap (phaseOps sn)) := by
  induction n generalizing p l x with
  | zero => exact absurd hn (Nat.not_lt_zero _)
  | succ n ih =>
    cases hruns with
    | next hp hnext =>
    rw [seek_succ hp]
    cases hcol : nextCol (sn.works p.1 p.2) (sn.w - x) x with
    | some z =>
      refine .inr ⟨l, .next hp hnext, by omega, ?_⟩
      rw [opsFrom, columnsFrom_cons hcol]
      rfl
    | none =>
      rw [opsFrom, columnsFrom_nil hcol, List.map_nil, List.nil_append]
      revert hnext
      generalize sn.subNext p.1 p.2 = q
      intro hnext
      cases hnext with
      | finish y => exact .inl ⟨rfl, by rw [seek_finish]⟩
      | next hq hl =>
        rw [List.flatMap_cons]
        rw [List.length_cons] at hn
        exact ih 0 (.next hq hl) (by omega) (by omega)

/-- R214: the cursor moves on to the head of the operations after its own. -/
theorem ahead_nextCursor {sn : Snap} {c o : Cursor} {ops : List Cursor} (h : Ahead sn c (o :: ops)) :
    c = o ∧ Ahead sn (sn.nextCursor c) ops := by
  rcases h with ⟨hnil, -⟩ | ⟨l, hruns, hlen, hops⟩
  · cases hnil
  · cases hops
    exact ⟨rfl, ahead_seek (c.x + 1) hruns hlen le_rfl⟩

theorem ahead_firstCursor (sn : Snap) : Ahead sn sn.firstCursor ((phasesFrom sn 0).flatMap (phaseOps sn)) := by
  have hruns := runs_phasesFrom (Nat.zero_le sn.h)
  have hlen := length_phasesFrom_lt sn
  rw [Snap.firstCursor]
  revert hruns hlen
  generalize sn.rowStart 0 = p
  generalize phasesFrom sn 0 = phases
  intro hruns hlen
  cases hruns with
  | finish y => exact .inl ⟨rfl, by rw [seek_finish]⟩
  | next hp hl =>
    rw [List.flatMap_cons]
    rw [List.length_cons] at hlen
    exact ahead_seek 0 (.next hp hl) (by omega) le_rfl

/-! ### The claim's list -/

theorem phaseOps_eq (sn : Snap) (p : SubPhase × Nat) :
    phaseOps sn p = (columns sn (sn.works p.1 p.2)).map fun x => ⟨p.1, p.2, x⟩ := by
  rw [phaseOps, opsFrom, columnsFrom_zero]

theorem phaseOps_recon (sn : Snap) (y : Nat) :
    phaseOps sn (.recon, y) = (columns sn fun x => skippedPixel sn x (y - 1)).map fun x => ⟨.recon, y, x⟩ := by
  have hskipped : sn.works .recon y = fun x => skippedPixel sn x (y - 1) :=
    funext fun x => skipped_eq_skippedPixel sn x (y - 1)
  rw [phaseOps_eq, hskipped]

theorem flatMap_ite_singleton {α β : Type} (f : α → List β) (c : Bool) (a : α) :
    (if c then [a] else []).flatMap f = if c then f a else [] := by
  cases c
  · rfl
  · exact List.flatMap_singleton f a

/-- The operations of one row, as R214 lists them. -/
def rowOps (sn : Snap) (y : Nat) : List Cursor :=
  if mirroredRow sn y then
    (if sn.checker && !mirroredRow sn (y - 1) then
      (columns sn fun x => skippedPixel sn x (y - 1)).map fun x => ⟨.recon, y, x⟩ else [])
    ++ (columns sn fun _ => true).map fun x => ⟨.mirror, y, x⟩
  else
    ((columns sn fun x => renderedPixel sn x y).map fun x => ⟨.render, y, x⟩)
    ++ (if sn.checker && decide (1 ≤ y) then
      (columns sn fun x => skippedPixel sn x (y - 1)).map fun x => ⟨.recon, y, x⟩ else [])

/-- The operations after the last row. -/
def lastOps (sn : Snap) : List Cursor :=
  if sn.checker && !mirroredRow sn (sn.h - 1) then
    (columns sn fun x => skippedPixel sn x (sn.h - 1)).map fun x => ⟨.recon, sn.h, x⟩ else []

theorem frameOrder_eq (sn : Snap) : frameOrder sn = (List.range sn.h).flatMap (rowOps sn) ++ lastOps sn := rfl

theorem rowPhases_ops (sn : Snap) (y : Nat) : (rowPhases sn y).flatMap (phaseOps sn) = rowOps sn y := by
  have hmirrored : mirroredRow sn y = sn.mirrored y := rfl
  rw [rowPhases, rowOps, hmirrored]
  cases sn.mirrored y
  case true =>
    simp only [if_true, List.flatMap_append, flatMap_ite_singleton, List.flatMap_singleton, phaseOps_recon]
    rw [phaseOps_eq]
    rfl
  case false =>
    simp only [Bool.false_eq_true, if_false, List.flatMap_cons, flatMap_ite_singleton, phaseOps_recon]
    rw [phaseOps_eq]
    rfl

theorem lastPhases_ops (sn : Snap) : (lastPhases sn).flatMap (phaseOps sn) = lastOps sn := by
  rw [lastPhases, flatMap_ite_singleton, phaseOps_recon]
  rfl

theorem phasesFrom_ops (sn : Snap) : (phasesFrom sn 0).flatMap (phaseOps sn) = frameOrder sn := by
  have hrows : (fun y => (rowPhases sn y).flatMap (phaseOps sn)) = rowOps sn := funext (rowPhases_ops sn)
  rw [phasesFrom, List.flatMap_append, List.flatMap_assoc, hrows, lastPhases_ops, frameOrder_eq, Nat.sub_zero,
    List.range_eq_range']

/-- After `k` operations the cursor stands at the head of the rest. -/
theorem ahead_cursorAt (sn : Snap) {k : Nat} (hk : k ≤ (frameOrder sn).length) :
    Ahead sn (cursorAt sn k) ((frameOrder sn).drop k) := by
  induction k with
  | zero =>
    rw [List.drop_zero, ← phasesFrom_ops]
    exact ahead_firstCursor sn
  | succ k ih =>
    have hstep := ih (by omega)
    rw [List.drop_eq_getElem_cons hk] at hstep
    exact (ahead_nextCursor hstep).2

theorem cursorAt_eq_getElem (sn : Snap) {k : Nat} (hk : k < (frameOrder sn).length) :
    cursorAt sn k = (frameOrder sn)[k] := by
  have hstep := ahead_cursorAt sn hk.le
  rw [List.drop_eq_getElem_cons hk] at hstep
  exact (ahead_nextCursor hstep).1

theorem cursorAt_end (sn : Snap) : (cursorAt sn (frameOrder sn).length).sub = .finish := by
  rcases ahead_cursorAt sn le_rfl with ⟨-, hfinish⟩ | ⟨l, -, -, hops⟩
  · exact hfinish
  · rw [List.drop_length] at hops
    cases hops

/-- Settles O50: the cursor is at the head of what is left of the order, and past it at the end. -/
theorem cursorFollowsTheFrameOrder : Obligations.CursorFollowsTheFrameOrder :=
  fun sn _ => ⟨fun _ hk => cursorAt_eq_getElem sn hk, cursorAt_end sn⟩

end Sys2Proof.Proofs.FrameOrder
end

section
/-! PROOFS. How many pixel operations a frame has (43_frame_controller.md R213, R214): each pixel of a row is worked
on once, in its row's turn or with the next one's, so W for each of H rows. -/

namespace Sys2Proof.Proofs.FrameLength

open Sys2Proof.Machine Sys2Proof.Claims Sys2Proof.Proofs.FrameOrder

/-- How many pixels of row `y` are reconstructed, while row `y + 1` is the current row. -/
def reconCount (sn : Snap) (y : Nat) : Nat := (columns sn fun x => skippedPixel sn x y).length

/-- How many pixels of row `y` are rendered or copied. -/
def ownCount (sn : Snap) (y : Nat) : Nat :=
  if mirroredRow sn y then sn.w else (columns sn fun x => renderedPixel sn x y).length

theorem columns_eq (sn : Snap) (p : Nat → Bool) : columns sn p = (List.range sn.w).filter p := rfl

theorem length_columns_true (sn : Snap) : (columns sn fun _ => true).length = sn.w := by
  rw [columns_eq, List.filter_true, List.length_range]

theorem reconCount_eq_zero {sn : Snap} {y : Nat} (h : (sn.checker && !mirroredRow sn y) = false) :
    reconCount sn y = 0 := by
  have hnone : (fun x => skippedPixel sn x y) = fun _ => false := by
    funext x
    rw [skippedPixel, Bool.and_comm (!mirroredRow sn y), h, Bool.false_and]
  rw [reconCount, hnone, columns, List.filter_false, List.length_nil]

/-- Both ways of working on a row together are on each of its pixels. -/
theorem ownCount_add_reconCount (sn : Snap) (y : Nat) : ownCount sn y + reconCount sn y = sn.w := by
  rw [ownCount]
  cases hm : mirroredRow sn y
  case true => rw [if_pos rfl, reconCount_eq_zero (by simp [hm]), Nat.add_zero]
  case false =>
    have hskipped : (fun x => skippedPixel sn x y) = fun x => !renderedPixel sn x y := by
      funext x
      rw [← Columns.skipped_eq_skippedPixel, Snap.skipped]
      change (!mirroredRow sn y && _) = _
      rw [hm]
      rfl
    have hsplit := List.length_eq_countP_add_countP (fun x => renderedPixel sn x y) (l := List.range sn.w)
    rw [List.length_range, List.countP_eq_length_filter, List.countP_eq_length_filter] at hsplit
    rw [if_neg Bool.false_ne_true, reconCount, hskipped]
    simpa [columns_eq] using hsplit.symm

/-- In the turn of row `y` its own pixels are worked on, and the ones left of the row before it. -/
theorem length_rowOps (sn : Snap) (y : Nat) :
    (rowOps sn y).length = ownCount sn y + if y = 0 then 0 else reconCount sn (y - 1) := by
  rw [rowOps, ownCount]
  cases hm : mirroredRow sn y
  case true =>
    have hy : y ≠ 0 := by
      rintro rfl
      exact nomatch hm.symm.trans sn.mirrored_zero
    rw [if_pos rfl, if_pos rfl, if_neg hy, List.length_append, List.length_map, length_columns_true, Nat.add_comm]
    cases hrecon : sn.checker && !mirroredRow sn (y - 1)
    case true => rw [if_pos rfl, List.length_map, reconCount]
    case false => rw [if_neg Bool.false_ne_true, List.length_nil, reconCount_eq_zero hrecon]
  case false =>
    rw [if_neg Bool.false_ne_true, if_neg Bool.false_ne_true, List.length_append, List.length_map]
    rcases Nat.eq_zero_or_pos y with rfl | hy
    · simp
    · have hone : 1 ≤ y := hy
      rw [if_neg hy.ne']
      cases hchecker : sn.checker
      case true => simp [hone, reconCount]
      case false => simp [reconCount_eq_zero, hchecker]

theorem length_lastOps (sn : Snap) : (lastOps sn).length = reconCount sn (sn.h - 1) := by
  rw [lastOps]
  cases hrecon : sn.checker && !mirroredRow sn (sn.h - 1)
  case true => rw [if_pos rfl, List.length_map, reconCount]
  case false => rw [if_neg Bool.false_ne_true, List.length_nil, reconCount_eq_zero hrecon]

/-- After `n` rows, all of their pixels are worked on but the ones the next row's turn still has to reconstruct. -/
theorem length_rows (sn : Snap) (n : Nat) :
    ((List.range n).flatMap (rowOps sn)).length + (if n = 0 then 0 else reconCount sn (n - 1)) = sn.w * n := by
  induction n with
  | zero => simp
  | succ n ih =>
    have hrow := ownCount_add_reconCount sn n
    rw [List.range_succ, List.flatMap_append, List.length_append, List.flatMap_singleton, length_rowOps,
      if_neg n.succ_ne_zero, Nat.add_sub_cancel, Nat.mul_succ]
    omega

theorem length_frameOrder {sn : Snap} (hh : sn.h ≠ 0) : (frameOrder sn).length = sn.w * sn.h := by
  have hrows := length_rows sn sn.h
  rw [if_neg hh] at hrows
  rw [frameOrder_eq, List.length_append, length_lastOps, hrows]

end Sys2Proof.Proofs.FrameLength
end

section
/-! PROOFS. A frame whose every access is answered (43_frame_controller.md R221, R227): each turn works on one pixel
and moves the cursor on, to the end. -/

namespace Sys2Proof.Proofs.BoundedFrame

open Sys2Proof.Machine Sys2Proof.Claims Sys2Proof.Proofs.Framebuffer Sys2Proof.Proofs.FrameOrder

/-! ### Answered accesses (R77) -/

theorem busOk_of_denied_nil {b : Build} (h : b.denied = []) (a : Word) (w : Width) (k : AccessKind) :
    Build.busOk b a w k = true := by
  simp [Build.busOk, h]

section Answered

variable {s : State} (h : s.build.denied = [])
include h

theorem not_pixelFails (p : Nat × Nat) : ¬ pixelFails s p := by
  simp [pixelFails, busOk_of_denied_nil h]

theorem not_rayFails (c : Cfg) (ray : Ray) : ¬ rayFails s c ray := by
  rintro ⟨pre, -, -, -, hno⟩
  simp [busOk_of_denied_nil h] at hno

theorem writePixelThen_sfc (x y : Nat) (v : Word) : (s.writePixelThen x y v State.advanceCursor).sfc
    = { s.sfc with cursor := s.sfc.snap.nextCursor s.sfc.cursor } := by
  rcases s.writePixelThen_cases x y v State.advanceCursor with ⟨-, hwrite⟩ | ⟨hno, -⟩
  · rw [hwrite]
    rfl
  · rw [busOk_of_denied_nil h] at hno
    cases hno

theorem renderPixel_sfc (x y : Nat) :
    (s.renderPixel x y).sfc = { s.sfc with cursor := s.sfc.snap.nextCursor s.sfc.cursor } := by
  rcases Render.renderPixel_cases s x y with ⟨o, -, hrender⟩ | ⟨hfails, -⟩
  · rw [hrender]
    exact writePixelThen_sfc (s := Render.rayMarched s x y) h x y _
  · exact absurd hfails (not_rayFails h _ _)

theorem mirrorPixel_sfc (x y : Nat) :
    (s.mirrorPixel x y).sfc = { s.sfc with cursor := s.sfc.snap.nextCursor s.sfc.cursor } := by
  obtain ⟨n, ⟨v, -, hcopy⟩ | ⟨hfails, -⟩⟩ := LateRows.mirrorPixel_cases s x y
  · rw [hcopy]
    exact writePixelThen_sfc (s := { s with draws := n }) h x y v
  · exact absurd hfails (not_pixelFails h _)

theorem reconPixel_sfc (x r : Nat) :
    (s.reconPixel x r).sfc = { s.sfc with cursor := s.sfc.snap.nextCursor s.sfc.cursor } := by
  rcases Reconstruction.readFour_cases s s.draws x r with ⟨a, b, c, d, n, hread, -⟩ | ⟨-, p, -, hfails⟩
  · rw [State.reconPixel, hread]
    exact writePixelThen_sfc (s := { s with draws := n }) h x r _
  · exact absurd hfails (not_pixelFails h p)

end Answered

/-! ### One turn -/

/-- What a turn that works on a pixel leaves of the frame (R214). -/
structure MovesOn (s t : State) : Prop where
  sfc : t.sfc = { s.sfc with cursor := s.sfc.snap.nextCursor s.sfc.cursor }
  ctrl : t.ctrl = s.ctrl
  counts : t.frameCount = s.frameCount ∧ t.lateCount = s.lateCount

/-- An operation that stays in the active phase did not fault. -/
theorem movesOn_of_moves {s t : State} (hmoves : Moves s t) (hactive : s.sfc.phase = .active)
    (hsfc : t.sfc = { s.sfc with cursor := s.sfc.snap.nextCursor s.sfc.cursor }) : MovesOn s t := by
  rcases hmoves.step with ⟨hgoes, -⟩ | hfault
  · exact ⟨hsfc, hgoes.ctrl, hgoes.counts.1, hgoes.counts.2.1⟩
  · have hoff := hfault.sfc
    rw [hsfc] at hoff
    have hphase := congrArg Sfc.phase hoff
    rw [hactive] at hphase
    cases hphase

/-- R207, R214, R224: a turn on a pixel whose accesses are answered and whose row LINE has passed. -/
theorem movesOn_sfcTurn {s : State} (hactive : s.sfc.phase = .active) (hdenied : s.build.denied = [])
    (hlatch : s.sfc.lateLatch = false)
    (hsub : s.sfc.cursor.sub = .recon ∨ (s.sfc.cursor.sub = .render ∨ s.sfc.cursor.sub = .mirror)
      ∧ s.sfc.snap.cfg.voff.toNat + s.sfc.cursor.y < s.line.toNat) : MovesOn s s.sfcTurn := by
  let s0 : State := { s with curPos := position s.sfc.cursor.y s.sfc.cursor.x }
  have hguarded {t : State} (h : MovesOn s0 t) : MovesOn s t := ⟨h.sfc, h.ctrl, h.counts⟩
  rw [sfcTurn_of_active hactive, State.activeStep]
  rcases hsub with hrecon | ⟨hrender | hmirror, hline⟩
  · rw [hrecon]
    exact movesOn_of_moves (s.reconPixel_moves _ _) hactive (reconPixel_sfc hdenied _ _)
  · rw [hrender]
    dsimp only
    rw [guarded_of_ok hlatch hline]
    exact hguarded (movesOn_of_moves (s0.renderPixel_moves _ _) hactive (renderPixel_sfc (s := s0) hdenied _ _))
  · rw [hmirror]
    dsimp only
    rw [guarded_of_ok hlatch hline]
    exact hguarded (movesOn_of_moves (s0.mirrorPixel_moves _ _) hactive (mirrorPixel_sfc (s := s0) hdenied _ _))

/-! ### The turns of a frame -/

theorem sfcTurns_succ (k : Nat) (s : State) : sfcTurns (k + 1) s = (sfcTurns k s).sfcTurn := by
  induction k generalizing s with
  | zero => rfl
  | succ k ih => exact ih s.sfcTurn

theorem cursorOk_cursorAt {sn : Snap} (h : sn.configOk = true) (k : Nat) : sn.cursorOk (cursorAt sn k) = true := by
  induction k with
  | zero => exact sn.firstCursor_ok h
  | succ k ih => exact sn.nextCursor_ok h ih

/-- R214: the operations of a frame are those of its three sub-phases. -/
theorem sub_of_mem_frameOrder {sn : Snap} {c : Cursor} (h : c ∈ frameOrder sn) :
    c.sub = .recon ∨ c.sub = .render ∨ c.sub = .mirror := by
  have hmap {sub : SubPhase} {y : Nat} {xs : List Nat}
      (hc : c ∈ xs.map fun x => (⟨sub, y, x⟩ : Cursor)) : c.sub = sub := by
    obtain ⟨x, -, rfl⟩ := List.mem_map.1 hc
    rfl
  have hite {sub : SubPhase} {y : Nat} {xs : List Nat} {b : Bool}
      (hc : c ∈ if b then xs.map fun x => (⟨sub, y, x⟩ : Cursor) else []) : c.sub = sub := by
    cases b
    · cases hc
    · exact hmap hc
  rw [frameOrder_eq, List.mem_append, List.mem_flatMap] at h
  rcases h with ⟨y, -, hrow⟩ | hlast
  · rw [rowOps] at hrow
    split at hrow
    · rcases List.mem_append.1 hrow with hc | hc
      · exact .inl (hite hc)
      · exact .inr (.inr (hmap hc))
    · rcases List.mem_append.1 hrow with hc | hc
      · exact .inr (.inl (hmap hc))
      · exact .inl (hite hc)
  · exact .inl (hite hlast)

/-- A frame under way: `t` is `s` after `k` pixels. -/
structure UnderWay (s : State) (k : Nat) (t : State) : Prop where
  sfc : t.sfc = { s.sfc with cursor := cursorAt s.sfc.snap k }
  build : t.build = s.build
  line : t.line = s.line
  ctrl : t.ctrl = s.ctrl
  counts : t.frameCount = s.frameCount ∧ t.lateCount = s.lateCount

section Frame

variable {s : State} (hactive : s.sfc.phase = .active) (hlatch : s.sfc.lateLatch = false)
  (hconfig : s.sfc.snap.configOk = true) (hcursor : s.sfc.cursor = s.sfc.snap.firstCursor)
  (hdenied : s.build.denied = []) (hline : s.sfc.snap.cfg.voff.toNat + s.sfc.snap.h ≤ s.line.toNat)
include hactive hlatch hconfig hdenied hline

theorem UnderWay.sfcTurn {k : Nat} {t : State} (h : UnderWay s k t) (hk : k < (frameOrder s.sfc.snap).length) :
    UnderWay s (k + 1) t.sfcTurn := by
  have hok := cursorOk_cursorAt hconfig k
  have hmem : cursorAt s.sfc.snap k ∈ frameOrder s.sfc.snap := cursorAt_eq_getElem _ hk ▸ List.getElem_mem hk
  have hrow := Snap.subOk_of_cursorOk _ hok
  have hmoves : MovesOn t t.sfcTurn := by
    refine movesOn_sfcTurn ?_ ?_ ?_ ?_
    · rw [h.sfc]
      exact hactive
    · rw [h.build]
      exact hdenied
    · rw [h.sfc]
      exact hlatch
    · rw [h.sfc, h.line]
      refine (sub_of_mem_frameOrder hmem).imp_right fun hsub => ⟨hsub, ?_⟩
      have hy : (cursorAt s.sfc.snap k).y < s.sfc.snap.h := by
        rcases hsub with hsub | hsub <;> rw [hsub] at hrow <;> exact hrow.1
      exact (Nat.add_lt_add_left hy _).trans_le hline
  have hsame := t.sfcTurn_same
  refine ⟨?_, hsame.build.trans h.build, hsame.line.trans h.line, hmoves.ctrl.trans h.ctrl,
    hmoves.counts.1.trans h.counts.1, hmoves.counts.2.trans h.counts.2⟩
  rw [hmoves.sfc, h.sfc]
  rfl

include hcursor

theorem underWay_sfcTurns {k : Nat} (hk : k ≤ (frameOrder s.sfc.snap).length) : UnderWay s k (sfcTurns k s) := by
  induction k with
  | zero => exact ⟨by rw [cursorAt, ← hcursor]; rfl, rfl, rfl, rfl, rfl, rfl⟩
  | succ k ih =>
    rw [sfcTurns_succ]
    exact (ih (by omega)).sfcTurn hactive hlatch hconfig hdenied hline hk

end Frame

/-- R221: after the last pixel the next turn completes the frame. -/
theorem UnderWay.complete {s t : State} (h : UnderWay s (frameOrder s.sfc.snap).length t)
    (hactive : s.sfc.phase = .active) : t.sfcTurn = t.complete := by
  have hphase : t.sfc.phase = .active := by rw [h.sfc, hactive]
  have hfinish : t.sfc.cursor.sub = .finish := by
    rw [h.sfc]
    exact cursorAt_end _
  rw [sfcTurn_of_active hphase, State.activeStep, hfinish]

/-- Settles O51: the frame is under way for as many turns as it has pixels, and the turn after them completes it. -/
theorem frameCompletesInBoundedTurns : Obligations.FrameCompletesInBoundedTurns := by
  intro s hactive hlatch hconfig hcursor hdenied hline n
  have hlength : (frameOrder s.sfc.snap).length = n := FrameLength.length_frameOrder (Snap.h_ne_zero _ hconfig)
  have hway {k : Nat} (hk : k ≤ n) : UnderWay s k (sfcTurns k s) :=
    underWay_sfcTurns hactive hlatch hconfig hcursor hdenied hline (hk.trans_eq hlength.symm)
  have hlast := hway le_rfl
  have hcomplete : sfcTurns (n + 1) s = (sfcTurns n s).complete := by
    rw [sfcTurns_succ]
    exact UnderWay.complete (hlength.symm ▸ hlast) hactive
  rw [hcomplete]
  refine ⟨hlength, fun k hk => ⟨?_, (hway hk).counts.1⟩, rfl, ?_, hlast.counts.2, ?_⟩
  · rw [(hway hk).sfc]
    exact hactive
  · rw [State.complete_frameCount, hlast.counts.1]
  · rw [← hlast.ctrl]
    rfl

end Sys2Proof.Proofs.BoundedFrame
end

section
/-! PROOFS. The norm of COSSIN (40_fixed_point_math.md R134): with `d` the distance of the angle from the middle of its
quadrant, a quarter `m` of ONE and `k = d² / ONE`, cos and sin are `3m ∓ d − k`, and their squares add up to
`ONE² + 2 (m − k)² + 2 (d² mod ONE)`. -/

namespace Sys2Proof.Proofs.CossinNorm

open Sys2Proof.Machine Sys2Proof.Claims Sys2Proof.Proofs.Cossin

/-- The floor of the square of an angle, from the middle of the quadrant. -/
theorem sq_div_eq {m : Int} (hm : 0 < m) (u : Int) :
    u ^ 2 / (4 * m) = u - m + (u - 2 * m) ^ 2 / (4 * m) := by
  have hsq : u ^ 2 = (u - 2 * m) ^ 2 + 4 * m * (u - m) := by ring
  rw [hsq, Int.add_mul_ediv_left _ _ (by omega), Int.add_comm]

/-- The norm of the two quadratics of R133, exactly. -/
theorem norm_eq {m : Int} (hm : 0 < m) (u : Int) :
    (4 * m - u ^ 2 / (4 * m)) ^ 2 + (4 * m - (4 * m - u) ^ 2 / (4 * m)) ^ 2
      = (4 * m) ^ 2 + 2 * ((m - (u - 2 * m) ^ 2 / (4 * m)) ^ 2 + (u - 2 * m) ^ 2 % (4 * m)) := by
  have hreflect : (4 * m - u - 2 * m) ^ 2 = (u - 2 * m) ^ 2 := by ring
  have hdivmod := Int.mul_ediv_add_emod ((u - 2 * m) ^ 2) (4 * m)
  rw [sq_div_eq hm u, sq_div_eq hm (4 * m - u), hreflect]
  generalize (u - 2 * m) ^ 2 / (4 * m) = k at *
  generalize (u - 2 * m) ^ 2 % (4 * m) = r at *
  linear_combination (-2 : Int) * hdivmod

/-- The excess of the norm is greatest where `d²` is the last square below ONE: `t²`. -/
theorem excess_le {m t d : Int} (hm : 0 < m) (ht : 0 ≤ t) (hsquare : 4 * m ≤ (t + 1) ^ 2) (hlarge : 2 * m ≤ t ^ 2)
    (hd : d ^ 2 ≤ (2 * m) ^ 2) : (m - d ^ 2 / (4 * m)) ^ 2 + d ^ 2 % (4 * m) ≤ m ^ 2 + t ^ 2 := by
  have hpos : 0 < 4 * m := by omega
  have hdivmod := Int.mul_ediv_add_emod (d ^ 2) (4 * m)
  have hmod := Int.emod_lt_of_pos (d ^ 2) hpos
  have hk : 0 ≤ d ^ 2 / (4 * m) := Int.ediv_nonneg (sq_nonneg d) hpos.le
  have hkm : d ^ 2 / (4 * m) ≤ m := Int.ediv_le_of_le_mul hpos (hd.trans_eq (by ring))
  rcases hk.eq_or_lt with hzero | hone
  · rw [← hzero] at hdivmod ⊢
    have hlt : d ^ 2 < (t + 1) ^ 2 := by omega
    have habs : |d| ≤ t := Int.lt_add_one_iff.1 (abs_lt_of_sq_lt_sq hlt (by omega))
    have hle : d ^ 2 ≤ t ^ 2 := sq_le_sq.2 (habs.trans (le_abs_self t))
    rw [sub_zero]
    omega
  · have hfall : (m - d ^ 2 / (4 * m)) ^ 2 ≤ (m - 1) ^ 2 := by
      rw [sq_le_sq, abs_of_nonneg (by omega), abs_of_nonneg (by omega)]
      omega
    have hexpand : (m - 1) ^ 2 = m ^ 2 - 2 * m + 1 := by ring
    omega

/-- A quarter of ONE. -/
def quarter : QFormat → Int
  | .q10 => 256
  | .q11 => 512
  | .q12 => 1024
  | .q13 => 2048

/-- The root of the last square below ONE. -/
def squareRoot : QFormat → Int
  | .q10 => 31
  | .q11 => 45
  | .q12 => 63
  | .q13 => 90

theorem one_eq_quarter (q : QFormat) : one q = 4 * quarter q := by cases q <;> rfl

/-- R134: the documented excess. -/
theorem normExcess_eq (q : QFormat) : normExcess q = 2 * (quarter q ^ 2 + squareRoot q ^ 2) := by cases q <;> rfl

theorem squareRoot_bounds (q : QFormat) : 0 < quarter q ∧ 0 ≤ squareRoot q
    ∧ 4 * quarter q ≤ (squareRoot q + 1) ^ 2 ∧ 2 * quarter q ≤ squareRoot q ^ 2 := by
  cases q <;> decide

/-- In each quadrant cos and sin are the two quadratics, up to their order and signs. -/
theorem cosSin_norm (q : QFormat) (th : Int) :
    (cosSin q th).1 ^ 2 + (cosSin q th).2 ^ 2
      = (one q - (th % one q) ^ 2 / one q) ^ 2 + (one q - (one q - th % one q) ^ 2 / one q) ^ 2 := by
  simp only [cosSin]
  split_ifs <;> ring

theorem cosSin_norm_bounds (q : QFormat) (th : Int) :
    one q ^ 2 ≤ (cosSin q th).1 ^ 2 + (cosSin q th).2 ^ 2
      ∧ (cosSin q th).1 ^ 2 + (cosSin q th).2 ^ 2 ≤ one q ^ 2 + normExcess q := by
  obtain ⟨hm, ht, hsquare, hlarge⟩ := squareRoot_bounds q
  have hpos : 0 < 4 * quarter q := by omega
  have hu := Int.emod_nonneg th hpos.ne'
  have hu' := Int.emod_lt_of_pos th hpos
  have hd : (th % (4 * quarter q) - 2 * quarter q) ^ 2 ≤ (2 * quarter q) ^ 2 := by
    rw [sq_le_sq, abs_of_nonneg (show 0 ≤ 2 * quarter q by omega), abs_le]
    omega
  have hexcess := excess_le hm ht hsquare hlarge hd
  have hmod := Int.emod_nonneg ((th % (4 * quarter q) - 2 * quarter q) ^ 2) hpos.ne'
  rw [cosSin_norm, one_eq_quarter, normExcess_eq, norm_eq hm]
  constructor
  · have hsq := sq_nonneg (quarter q - (th % (4 * quarter q) - 2 * quarter q) ^ 2 / (4 * quarter q))
    omega
  · omega

/-- A number whose square is within the norm is an i32 value. -/
theorem toInt_ofInt_of_sq_le {q : QFormat} {v : Int} (h : v ^ 2 ≤ one q ^ 2 + normExcess q) :
    (BitVec.ofInt 32 v).toInt = v := by
  have hbound : one q ^ 2 + normExcess q ≤ 16384 ^ 2 := by cases q <;> decide
  obtain ⟨hlo, hhi⟩ := abs_le_of_sq_le_sq' (h.trans hbound) (by decide)
  rw [BitVec.toInt_ofInt, Int.bmod_eq_of_le (by omega) (by omega)]

/-- Settles O10: both results are i32 values, with the norm of the claim's cos and sin. -/
theorem cossinNormIsBounded : Obligations.CossinNormIsBounded := by
  intro q th hlo hhi
  obtain ⟨hnorm, hnorm'⟩ := cosSin_norm_bounds q th
  have hcos := sq_nonneg (cosSin q th).1
  have hsin := sq_nonneg (cosSin q th).2
  refine ⟨_, _, cossin_eq_some (not_or.2 ⟨hlo.not_gt, hhi.not_ge⟩), ?_⟩
  rw [toInt_ofInt_of_sq_le (q := q) (by omega), toInt_ofInt_of_sq_le (q := q) (by omega)]
  exact ⟨hnorm, hnorm'⟩

end Sys2Proof.Proofs.CossinNorm
end

section
/-! PROOFS. QEXP is monotone (40_fixed_point_math.md R137): where two neighbouring residues part at a threshold `L`,
the upper one takes it and is done, and the lower one, with `L − 1` left, gains no more on the steps below. -/

namespace Sys2Proof.Proofs.QexpMonotone

open Sys2Proof.Machine Sys2Proof.Claims

/-! ### What the fraction ladder gains -/

/-- The factor the ladder multiplies by at most, `1 + 2^−k` for each step taken, as numerator and denominator. -/
def gain : List Nat → Nat → Nat → Nat × Nat
  | [], _, _ => (1, 1)
  | l :: ls, k, r =>
    if r < l then gain ls (k + 1) r
    else ((2 ^ k + 1) * (gain ls (k + 1) (r - l)).1, 2 ^ k * (gain ls (k + 1) (r - l)).2)

/-- R136: one step taken, as a fraction. -/
theorem step_mul_le (y k : Nat) : (y + y / 2 ^ k) * 2 ^ k ≤ y * (2 ^ k + 1) := by
  have hdiv := Nat.div_mul_le_self y (2 ^ k)
  rw [Nat.add_mul, Nat.mul_add, Nat.mul_one]
  omega

theorem gain_pos (ls : List Nat) (k r : Nat) : 0 < (gain ls k r).2 := by
  induction ls generalizing k r with
  | nil => exact Nat.one_pos
  | cons l ls ih =>
    rw [gain]
    split
    · exact ih _ _
    · exact Nat.mul_pos (Nat.two_pow_pos k) (ih _ _)

theorem one_le_gain (ls : List Nat) (k r : Nat) : (gain ls k r).2 ≤ (gain ls k r).1 := by
  induction ls generalizing k r with
  | nil => exact le_rfl
  | cons l ls ih =>
    rw [gain]
    split
    · exact ih _ _
    · exact Nat.mul_le_mul (Nat.le_succ _) (ih _ _)

/-- The ladder, with its floors and its saturation, gains no more than the factor. -/
theorem fractionLadder_mul_le (ls : List Nat) (k r y : Nat) :
    fractionLadder ls k r y * (gain ls k r).2 ≤ y * (gain ls k r).1 := by
  induction ls generalizing k r y with
  | nil => exact le_rfl
  | cons l ls ih =>
    rw [fractionLadder, gain]
    split
    · exact ih _ _ _
    have htaken {v : Nat} (hv : v * (gain ls (k + 1) (r - l)).2
        ≤ (y + y / 2 ^ k) * (gain ls (k + 1) (r - l)).1) :
        v * (2 ^ k * (gain ls (k + 1) (r - l)).2) ≤ y * ((2 ^ k + 1) * (gain ls (k + 1) (r - l)).1) := calc
      _ = v * (gain ls (k + 1) (r - l)).2 * 2 ^ k := by ring
      _ ≤ (y + y / 2 ^ k) * (gain ls (k + 1) (r - l)).1 * 2 ^ k := Nat.mul_le_mul_right _ hv
      _ = (y + y / 2 ^ k) * 2 ^ k * (gain ls (k + 1) (r - l)).1 := by ring
      _ ≤ y * (2 ^ k + 1) * (gain ls (k + 1) (r - l)).1 := Nat.mul_le_mul_right _ (step_mul_le y k)
      _ = _ := Nat.mul_assoc _ _ _
    split
    next hsat => exact htaken (Nat.mul_le_mul (by omega) (one_le_gain _ _ _))
    · exact htaken (ih _ _ _)

/-- The ladder stays between its start and MAX. -/
theorem fractionLadder_bounds (ls : List Nat) (k r : Nat) {y : Nat} (hy : y ≤ 2 ^ 31 - 1) :
    y ≤ fractionLadder ls k r y ∧ fractionLadder ls k r y ≤ 2 ^ 31 - 1 := by
  induction ls generalizing k r y with
  | nil => exact ⟨le_rfl, hy⟩
  | cons l ls ih =>
    rw [fractionLadder]
    split
    · exact ih _ _ hy
    split
    · exact ⟨hy, le_rfl⟩
    next hfits =>
      obtain ⟨hlo, hhi⟩ := ih (k + 1) (r - l) (y := y + y / 2 ^ k) (by omega)
      exact ⟨(Nat.le_add_right _ _).trans hlo, hhi⟩

/-! ### Neighbouring residues -/

/-- Below each threshold `L` of the list, the residue `L − 1` gains at most the step of `L` itself. -/
def graded : Nat → List Nat → Bool
  | _, [] => true
  | k, l :: ls =>
    decide ((gain ls (k + 1) (l - 1)).1 * 2 ^ k ≤ (2 ^ k + 1) * (gain ls (k + 1) (l - 1)).2) && graded (k + 1) ls

theorem graded_cons {k l : Nat} {ls : List Nat} (h : graded k (l :: ls) = true) :
    (gain ls (k + 1) (l - 1)).1 * 2 ^ k ≤ (2 ^ k + 1) * (gain ls (k + 1) (l - 1)).2
      ∧ graded (k + 1) ls = true := by
  simpa only [graded, Bool.and_eq_true, decide_eq_true_eq] using h

/-- The lower residue, with the steps below `L`, stays within the step of `L`. -/
theorem fractionLadder_le_step {k l : Nat} {ls : List Nat} (h : graded k (l :: ls) = true) (y : Nat) :
    fractionLadder ls (k + 1) (l - 1) y ≤ y + y / 2 ^ k := by
  have hgain := (graded_cons h).1
  have hladder := fractionLadder_mul_le ls (k + 1) (l - 1) y
  have hpos := gain_pos ls (k + 1) (l - 1)
  generalize fractionLadder ls (k + 1) (l - 1) y = v at *
  generalize gain ls (k + 1) (l - 1) = g at *
  have hscaled : v * 2 ^ k * g.2 ≤ y * (2 ^ k + 1) * g.2 := calc
    _ = v * g.2 * 2 ^ k := by ring
    _ ≤ y * g.1 * 2 ^ k := Nat.mul_le_mul_right _ hladder
    _ = y * (g.1 * 2 ^ k) := Nat.mul_assoc _ _ _
    _ ≤ y * ((2 ^ k + 1) * g.2) := Nat.mul_le_mul_left _ hgain
    _ = _ := (Nat.mul_assoc _ _ _).symm
  have hstep : v * 2 ^ k ≤ y + y * 2 ^ k := by
    have hcancel := Nat.le_of_mul_le_mul_right hscaled hpos
    rwa [Nat.mul_succ, Nat.add_comm] at hcancel
  have hdiv := (Nat.le_div_iff_mul_le (Nat.two_pow_pos k)).2 hstep
  rwa [Nat.add_mul_div_right _ _ (Nat.two_pow_pos k), Nat.add_comm] at hdiv

theorem fractionLadder_le_succ {k : Nat} {ls : List Nat} (h : graded k ls = true) (r : Nat) {y : Nat}
    (hy : y ≤ 2 ^ 31 - 1) : fractionLadder ls k r y ≤ fractionLadder ls k (r + 1) y := by
  induction ls generalizing k r y with
  | nil => exact le_rfl
  | cons l ls ih =>
    have hrest := (graded_cons h).2
    rw [fractionLadder, fractionLadder]
    by_cases hskip : r + 1 < l
    · rw [if_pos hskip, if_pos (by omega)]
      exact ih hrest r hy
    rw [if_neg hskip]
    by_cases hpart : r < l
    · obtain rfl : r = l - 1 := by omega
      rw [if_pos hpart]
      split
      · exact (fractionLadder_bounds ls _ _ hy).2
      next hfits =>
        exact (fractionLadder_le_step h y).trans (fractionLadder_bounds ls _ _ (by omega)).1
    · rw [if_neg hpart]
      split
      · exact le_rfl
      next hfits =>
        rw [Nat.sub_add_comm (by omega)]
        exact ih hrest _ (by omega)

/-! ### QEXP (R137) -/

/-- R135: the constants are graded, LN2 as the threshold of a doubling. -/
theorem graded_constants (q : QFormat) : graded 0 (qexpLn2 q :: qexpLadder q) = true := by
  cases q <;> decide

theorem two_pow_le_max {e : Nat} (he : e ≤ 30) : 2 ^ e ≤ 2 ^ 31 - 1 :=
  (Nat.pow_le_pow_right (by decide) he).trans (by decide)

theorem expValue_le_max (q : QFormat) (x : Nat) : expValue q x ≤ 2 ^ 31 - 1 := by
  have hfrac := Qexp.frac_le q
  rw [expValue]
  split
  · exact le_rfl
  · exact (fractionLadder_bounds _ _ _ (two_pow_le_max (by omega))).2

theorem expValue_le_succ (q : QFormat) (x : Nat) : expValue q x ≤ expValue q (x + 1) := by
  have hfrac := Qexp.frac_le q
  have hgraded := graded_constants q
  have hln2 := Qexp.qexpLn2_pos q
  have hx := Nat.div_add_mod x (qexpLn2 q)
  have hx' := Nat.div_add_mod (x + 1) (qexpLn2 q)
  by_cases hsat : 30 - q.frac < (x + 1) / qexpLn2 q
  · refine (expValue_le_max q x).trans_eq ?_
    rw [expValue, if_pos hsat]
  by_cases hwrap : (x + 1) % qexpLn2 q = 0
  · have hdiv : (x + 1) / qexpLn2 q = x / qexpLn2 q + 1 := by
      rw [Nat.succ_div, if_pos (Nat.dvd_of_mod_eq_zero hwrap)]
    have hmod : x % qexpLn2 q = qexpLn2 q - 1 := by
      rw [hdiv, hwrap, Nat.mul_succ] at hx'
      omega
    rw [expValue, expValue, if_neg (by omega), if_neg hsat, hwrap, hdiv, hmod]
    have hdouble : 2 ^ (q.frac + x / qexpLn2 q) + 2 ^ (q.frac + x / qexpLn2 q) / 2 ^ 0
        = 2 ^ (q.frac + (x / qexpLn2 q + 1)) := by
      rw [pow_zero, Nat.div_one, ← Nat.add_assoc, pow_succ, Nat.mul_two]
    calc
      _ ≤ _ := fractionLadder_le_step hgraded _
      _ = _ := hdouble
      _ ≤ _ := (fractionLadder_bounds _ _ _ (two_pow_le_max (by omega))).1
  · have hdiv : (x + 1) / qexpLn2 q = x / qexpLn2 q := by
      rw [Nat.succ_div, if_neg (mt Nat.mod_eq_zero_of_dvd hwrap), Nat.add_zero]
    have hmod : (x + 1) % qexpLn2 q = x % qexpLn2 q + 1 := by
      rw [hdiv] at hx'
      omega
    rw [expValue, expValue, if_neg (by omega), if_neg hsat, hdiv, hmod]
    exact fractionLadder_le_succ (graded_cons hgraded).2 _ (two_pow_le_max (by omega))

theorem expValue_threshold (q : QFormat) :
    expValue q (expThreshold q - 1) < 2 ^ 31 - 1 ∧ expValue q (expThreshold q) = 2 ^ 31 - 1
      ∧ 0 < expThreshold q := by
  cases q <;> decide

/-- Settles O12: monotone by neighbours, and so MAX from the threshold on and not below it. -/
theorem qexpIsMonotoneAndSaturatesAtThreshold : Obligations.QexpIsMonotoneAndSaturatesAtThreshold := by
  intro q x
  have hmono := monotone_nat_of_le_succ (expValue_le_succ q)
  obtain ⟨hbelow, hat, hpos⟩ := expValue_threshold q
  rw [Qexp.qexp_eq_expValue, Qexp.qexp_eq_expValue]
  refine ⟨expValue_le_succ q x, fun hmax => ?_, fun hle => ?_⟩
  · by_contra hlt
    have hle := hmono (show x ≤ expThreshold q - 1 by omega)
    omega
  · exact le_antisymm (expValue_le_max q x) (hat ▸ hmono hle)

end Sys2Proof.Proofs.QexpMonotone
end
